-- ==== Sys2Proof/Word.lean ====
section
/-! DEFINITION. The word types of the core: every value is an unsigned integer of a stated width
(spec 00_scope.md R9); there is no signed arithmetic anywhere. -/

namespace Sys2Proof

/-- A 4-bit subfield of an opcode, and the number of a register or of a key (R50). -/
abbrev Nibble := BitVec 4

/-- A byte of memory, a general register, a timer (R13). -/
abbrev Byte := BitVec 8

/-- A 12-bit address field NNN (R50). -/
abbrev Addr12 := BitVec 12

/-- An opcode, the program counter, the index register, a stack entry (R13, R49). -/
abbrev Word := BitVec 16

/-- The framebuffer: 32 rows of 64 one-bit pixels, pixel p is bit p mod 64 of row p / 64 (R22; log entry 7). -/
abbrev Framebuffer := Vector (BitVec 64) 32

/-- The keypad: 16 one-bit inputs, key k is bit k, 1 meaning down (R23; log entry 7). -/
abbrev Keys := BitVec 16

end Sys2Proof
end

