-- ==== Sys2Proof/Machine/Flags.lean ====
section
/-! DEFINITION. The flags (spec 10_state.md R15, 43_alu.md R86): each instruction that defines one writes VF with
exactly 0 or 1. The exact value is computed on numbers and compared; nothing is read off a wrapped result. -/

namespace Sys2Proof.Machine

/-- A flag as the byte VF takes (R15). -/
def flagByte (b : Bool) : Byte := if b then 0x01#8 else 0x00#8

/-- The carry of 8XY4: the exact sum exceeds 255 (R80). -/
def carry (a b : Byte) : Bool := decide (a.toNat + b.toNat > 255)

/-- The not-borrow of 8XY5 and 8XY7: the minuend exceeds the subtrahend, strictly (R81, R83). -/
def notBorrow (minuend subtrahend : Byte) : Bool := decide (minuend.toNat > subtrahend.toNat)

/-- The bit 8XY6 shifts out: bit 0 (R82). -/
def shiftedOutRight (a : Byte) : Bool := a.getLsbD 0

/-- The bit 8XYE shifts out: bit 7 (R84). -/
def shiftedOutLeft (a : Byte) : Bool := a.getLsbD 7

/-- The range flag of FX1E: the exact sum exceeds 0x0FFF (R89). -/
def indexOverflow (i : Word) (b : Byte) : Bool := decide (i.toNat + b.toNat > 0x0FFF)

end Sys2Proof.Machine
end

