-- ==== Sys2Proof/Syntax.lean ====
section
/-! DEFINITION. The instructions, one constructor for each row of spec/opcode_table.json (spec
30_encoding.md R54). The field types are the field widths of R50, so a term that does not fit its
encoding cannot be written down. -/

namespace Sys2Proof

/-- The 34 instructions. `x` and `y` are register numbers, `n` a row count, `nn` an immediate byte, `nnn` an
address or offset (R50, R52). -/
inductive Instr where
  /-- 00E0, clear the framebuffer (R63). -/
  | cls
  /-- 00EE, return from subroutine (R65). -/
  | ret
  /-- 1NNN, jump (R66). -/
  | jp (nnn : Addr12)
  /-- 2NNN, call subroutine (R67). -/
  | call (nnn : Addr12)
  /-- 3XNN, skip if equal to immediate (R68). -/
  | seImm (x : Nibble) (nn : Byte)
  /-- 4XNN, skip if not equal to immediate (R69). -/
  | sneImm (x : Nibble) (nn : Byte)
  /-- 5XY0, skip if registers equal (R70); the word's low nibble is not decoded (R53). -/
  | seReg (x y : Nibble)
  /-- 6XNN, load immediate (R74). -/
  | ldImm (x : Nibble) (nn : Byte)
  /-- 7XNN, add immediate without flag (R75). -/
  | addImm (x : Nibble) (nn : Byte)
  /-- 8XY0, copy register (R76). -/
  | ldReg (x y : Nibble)
  /-- 8XY1, bitwise OR (R77). -/
  | orReg (x y : Nibble)
  /-- 8XY2, bitwise AND (R78). -/
  | andReg (x y : Nibble)
  /-- 8XY3, bitwise exclusive OR (R79). -/
  | xorReg (x y : Nibble)
  /-- 8XY4, add with carry (R80). -/
  | addReg (x y : Nibble)
  /-- 8XY5, subtract with not-borrow flag (R81). -/
  | sub (x y : Nibble)
  /-- 8XY6, shift right (R82). -/
  | shr (x y : Nibble)
  /-- 8XY7, reverse subtract (R83). -/
  | subn (x y : Nibble)
  /-- 8XYE, shift left (R84). -/
  | shl (x y : Nibble)
  /-- 9XY0, skip if registers differ (R71); the word's low nibble is not decoded (R53). -/
  | sneReg (x y : Nibble)
  /-- ANNN, load index (R88). -/
  | ldI (nnn : Addr12)
  /-- BNNN, jump to V0 plus offset (R72). -/
  | jpV0 (nnn : Addr12)
  /-- CXNN, random byte masked by immediate (R85). -/
  | rnd (x : Nibble) (nn : Byte)
  /-- DXYN, draw a sprite (R64). -/
  | drw (x y n : Nibble)
  /-- EX9E, skip if key down (R95). -/
  | skp (x : Nibble)
  /-- EXA1, skip if key not down (R96). -/
  | sknp (x : Nibble)
  /-- FX07, read the delay timer (R97). -/
  | ldVxDt (x : Nibble)
  /-- FX0A, wait for a key (R98). -/
  | ldVxK (x : Nibble)
  /-- FX15, set the delay timer (R99). -/
  | ldDtVx (x : Nibble)
  /-- FX18, set the sound timer (R100). -/
  | ldStVx (x : Nibble)
  /-- FX1E, add register to index (R89). -/
  | addI (x : Nibble)
  /-- FX29, point index at a font glyph (R90). -/
  | ldF (x : Nibble)
  /-- FX33, store three decimal digits (R91). -/
  | ldB (x : Nibble)
  /-- FX55, store V0..Vx (R92). -/
  | ldMemVx (x : Nibble)
  /-- FX65, load V0..Vx (R93). -/
  | ldVxMem (x : Nibble)
deriving DecidableEq, Repr

end Sys2Proof
end

