-- ==== Sys2Proof/Decode.lean ====
section
/-! DEFINITION. From bits to an instruction and back (spec 30_encoding.md R49 to R56). Decoding is total and
rejects by name; the encoder is written from the same layouts (R51). -/

namespace Sys2Proof

/-- Why a word or a byte sequence is no instruction (R55): the family whose sub-field selects nothing, or
fewer than the two bytes every instruction takes (R49; raised on a byte list only, a fetch always has
two bytes). -/
inductive Unknown where
  /-- Family 0x0, neither 00E0 nor 00EE. -/
  | family0
  /-- Family 0x8, a low nibble other than 0 to 7 and E. -/
  | family8
  /-- Family 0xE, a low byte other than 9E and A1. -/
  | familyE
  /-- Family 0xF, a low byte other than the nine of R53. -/
  | familyF
  /-- Fewer than two bytes. -/
  | truncated
deriving DecidableEq, Repr

/-- The family nibble, bits 15 to 12 (R50). -/
def opFamily (op : Word) : Nibble := op.extractLsb' 12 4

/-- The field x, bits 11 to 8 (R50). -/
def opX (op : Word) : Nibble := op.extractLsb' 8 4

/-- The field y, bits 7 to 4 (R50). -/
def opY (op : Word) : Nibble := op.extractLsb' 4 4

/-- The field n, bits 3 to 0 (R50). -/
def opN (op : Word) : Nibble := op.extractLsb' 0 4

/-- The field nn, bits 7 to 0 (R50). -/
def opNN (op : Word) : Byte := op.extractLsb' 0 8

/-- The field nnn, bits 11 to 0 (R50). -/
def opNNN (op : Word) : Addr12 := op.extractLsb' 0 12

/-- Family 0x0 is decided by the whole word (R53). -/
def decodeFamily0 (op : Word) : Except Unknown Instr :=
  match op with
  | 0x00E0#16 => .ok .cls
  | 0x00EE#16 => .ok .ret
  | _ => .error .family0

/-- Family 0x8 is decided by the low nibble (R53). -/
def decodeFamily8 (op : Word) : Except Unknown Instr :=
  match opN op with
  | 0x0#4 => .ok (.ldReg (opX op) (opY op))
  | 0x1#4 => .ok (.orReg (opX op) (opY op))
  | 0x2#4 => .ok (.andReg (opX op) (opY op))
  | 0x3#4 => .ok (.xorReg (opX op) (opY op))
  | 0x4#4 => .ok (.addReg (opX op) (opY op))
  | 0x5#4 => .ok (.sub (opX op) (opY op))
  | 0x6#4 => .ok (.shr (opX op) (opY op))
  | 0x7#4 => .ok (.subn (opX op) (opY op))
  | 0xE#4 => .ok (.shl (opX op) (opY op))
  | _ => .error .family8

/-- Family 0xE is decided by the low byte (R53). -/
def decodeFamilyE (op : Word) : Except Unknown Instr :=
  match opNN op with
  | 0x9E#8 => .ok (.skp (opX op))
  | 0xA1#8 => .ok (.sknp (opX op))
  | _ => .error .familyE

/-- Family 0xF is decided by the low byte (R53). -/
def decodeFamilyF (op : Word) : Except Unknown Instr :=
  match opNN op with
  | 0x07#8 => .ok (.ldVxDt (opX op))
  | 0x0A#8 => .ok (.ldVxK (opX op))
  | 0x15#8 => .ok (.ldDtVx (opX op))
  | 0x18#8 => .ok (.ldStVx (opX op))
  | 0x1E#8 => .ok (.addI (opX op))
  | 0x29#8 => .ok (.ldF (opX op))
  | 0x33#8 => .ok (.ldB (opX op))
  | 0x55#8 => .ok (.ldMemVx (opX op))
  | 0x65#8 => .ok (.ldVxMem (opX op))
  | _ => .error .familyF

/-- Decode by the family nibble, then by a sub-field in the families 0, 8, E and F only (R53, R54). Families 5
and 9 do not decode their low nibble. The last arm is family 0xF, the one nibble left. -/
def decodeWord (op : Word) : Except Unknown Instr :=
  match opFamily op with
  | 0x0#4 => decodeFamily0 op
  | 0x1#4 => .ok (.jp (opNNN op))
  | 0x2#4 => .ok (.call (opNNN op))
  | 0x3#4 => .ok (.seImm (opX op) (opNN op))
  | 0x4#4 => .ok (.sneImm (opX op) (opNN op))
  | 0x5#4 => .ok (.seReg (opX op) (opY op))
  | 0x6#4 => .ok (.ldImm (opX op) (opNN op))
  | 0x7#4 => .ok (.addImm (opX op) (opNN op))
  | 0x8#4 => decodeFamily8 op
  | 0x9#4 => .ok (.sneReg (opX op) (opY op))
  | 0xA#4 => .ok (.ldI (opNNN op))
  | 0xB#4 => .ok (.jpV0 (opNNN op))
  | 0xC#4 => .ok (.rnd (opX op) (opNN op))
  | 0xD#4 => .ok (.drw (opX op) (opY op) (opN op))
  | 0xE#4 => decodeFamilyE op
  | _ => decodeFamilyF op

/-- Two bytes, the one at the lower address in bits 15 to 8 (R41: big-endian). -/
def joinBytes (hi lo : Byte) : Word := hi ++ lo

/-- Decoding of a byte sequence: two bytes are consumed, the rest is handed back (R49). -/
def decode : List Byte → Except Unknown (Instr × List Byte)
  | hi :: lo :: rest => (decodeWord (joinBytes hi lo)).map (fun i => (i, rest))
  | _ => .error .truncated

/-- The layout `oooo nnnn nnnn nnnn` (R51). -/
def wordNNN (o : Nibble) (nnn : Addr12) : Word := o ++ nnn

/-- The layout `oooo xxxx nnnn nnnn`, and `oooo xxxx ssss ssss` (R51). -/
def wordXNN (o x : Nibble) (nn : Byte) : Word := o ++ x ++ nn

/-- The layout `oooo xxxx yyyy nnnn`, and `oooo xxxx yyyy ssss` (R51). -/
def wordXYN (o x y n : Nibble) : Word := o ++ x ++ y ++ n

/-- The word of an instruction (R51, R54). For 5XY0 and 9XY0, whose low nibble is not decoded, the word with
that nibble 0, as the patterns are written (DESIGN CHOICE, log entry 16). -/
def encode : Instr → Word
  | .cls => 0x00E0#16
  | .ret => 0x00EE#16
  | .jp nnn => wordNNN 0x1#4 nnn
  | .call nnn => wordNNN 0x2#4 nnn
  | .seImm x nn => wordXNN 0x3#4 x nn
  | .sneImm x nn => wordXNN 0x4#4 x nn
  | .seReg x y => wordXYN 0x5#4 x y 0x0#4
  | .ldImm x nn => wordXNN 0x6#4 x nn
  | .addImm x nn => wordXNN 0x7#4 x nn
  | .ldReg x y => wordXYN 0x8#4 x y 0x0#4
  | .orReg x y => wordXYN 0x8#4 x y 0x1#4
  | .andReg x y => wordXYN 0x8#4 x y 0x2#4
  | .xorReg x y => wordXYN 0x8#4 x y 0x3#4
  | .addReg x y => wordXYN 0x8#4 x y 0x4#4
  | .sub x y => wordXYN 0x8#4 x y 0x5#4
  | .shr x y => wordXYN 0x8#4 x y 0x6#4
  | .subn x y => wordXYN 0x8#4 x y 0x7#4
  | .shl x y => wordXYN 0x8#4 x y 0xE#4
  | .sneReg x y => wordXYN 0x9#4 x y 0x0#4
  | .ldI nnn => wordNNN 0xA#4 nnn
  | .jpV0 nnn => wordNNN 0xB#4 nnn
  | .rnd x nn => wordXNN 0xC#4 x nn
  | .drw x y n => wordXYN 0xD#4 x y n
  | .skp x => wordXNN 0xE#4 x 0x9E#8
  | .sknp x => wordXNN 0xE#4 x 0xA1#8
  | .ldVxDt x => wordXNN 0xF#4 x 0x07#8
  | .ldVxK x => wordXNN 0xF#4 x 0x0A#8
  | .ldDtVx x => wordXNN 0xF#4 x 0x15#8
  | .ldStVx x => wordXNN 0xF#4 x 0x18#8
  | .addI x => wordXNN 0xF#4 x 0x1E#8
  | .ldF x => wordXNN 0xF#4 x 0x29#8
  | .ldB x => wordXNN 0xF#4 x 0x33#8
  | .ldMemVx x => wordXNN 0xF#4 x 0x55#8
  | .ldVxMem x => wordXNN 0xF#4 x 0x65#8

/-- The high byte of a word, the one at the lower address (R41). -/
def hiByte (op : Word) : Byte := op.extractLsb' 8 8

/-- The low byte of a word. -/
def loByte (op : Word) : Byte := op.extractLsb' 0 8

/-- The two bytes of an instruction in the order they lie in memory (R41, R49). -/
def encodeBytes (i : Instr) : List Byte := [hiByte (encode i), loByte (encode i)]

/-- A row of the opcode map: a word selects the row when its bits under `mask` are `word` (R54). -/
structure OpcodeRow where
  mask : Word
  word : Word
deriving DecidableEq, Repr

/-- The row of R54 an instruction stands in. -/
def rowOf : Instr → OpcodeRow
  | .cls => ⟨0xFFFF#16, 0x00E0#16⟩
  | .ret => ⟨0xFFFF#16, 0x00EE#16⟩
  | .jp _ => ⟨0xF000#16, 0x1000#16⟩
  | .call _ => ⟨0xF000#16, 0x2000#16⟩
  | .seImm _ _ => ⟨0xF000#16, 0x3000#16⟩
  | .sneImm _ _ => ⟨0xF000#16, 0x4000#16⟩
  | .seReg _ _ => ⟨0xF000#16, 0x5000#16⟩
  | .ldImm _ _ => ⟨0xF000#16, 0x6000#16⟩
  | .addImm _ _ => ⟨0xF000#16, 0x7000#16⟩
  | .ldReg _ _ => ⟨0xF00F#16, 0x8000#16⟩
  | .orReg _ _ => ⟨0xF00F#16, 0x8001#16⟩
  | .andReg _ _ => ⟨0xF00F#16, 0x8002#16⟩
  | .xorReg _ _ => ⟨0xF00F#16, 0x8003#16⟩
  | .addReg _ _ => ⟨0xF00F#16, 0x8004#16⟩
  | .sub _ _ => ⟨0xF00F#16, 0x8005#16⟩
  | .shr _ _ => ⟨0xF00F#16, 0x8006#16⟩
  | .subn _ _ => ⟨0xF00F#16, 0x8007#16⟩
  | .shl _ _ => ⟨0xF00F#16, 0x800E#16⟩
  | .sneReg _ _ => ⟨0xF000#16, 0x9000#16⟩
  | .ldI _ => ⟨0xF000#16, 0xA000#16⟩
  | .jpV0 _ => ⟨0xF000#16, 0xB000#16⟩
  | .rnd _ _ => ⟨0xF000#16, 0xC000#16⟩
  | .drw _ _ _ => ⟨0xF000#16, 0xD000#16⟩
  | .skp _ => ⟨0xF0FF#16, 0xE09E#16⟩
  | .sknp _ => ⟨0xF0FF#16, 0xE0A1#16⟩
  | .ldVxDt _ => ⟨0xF0FF#16, 0xF007#16⟩
  | .ldVxK _ => ⟨0xF0FF#16, 0xF00A#16⟩
  | .ldDtVx _ => ⟨0xF0FF#16, 0xF015#16⟩
  | .ldStVx _ => ⟨0xF0FF#16, 0xF018#16⟩
  | .addI _ => ⟨0xF0FF#16, 0xF01E#16⟩
  | .ldF _ => ⟨0xF0FF#16, 0xF029#16⟩
  | .ldB _ => ⟨0xF0FF#16, 0xF033#16⟩
  | .ldMemVx _ => ⟨0xF0FF#16, 0xF055#16⟩
  | .ldVxMem _ => ⟨0xF0FF#16, 0xF065#16⟩

/-- The opcode map of R54, in its order: the rows of families 0 to 7. -/
def opcodeRowsLow : List OpcodeRow :=
  [⟨0xFFFF#16, 0x00E0#16⟩, ⟨0xFFFF#16, 0x00EE#16⟩, ⟨0xF000#16, 0x1000#16⟩, ⟨0xF000#16, 0x2000#16⟩,
   ⟨0xF000#16, 0x3000#16⟩, ⟨0xF000#16, 0x4000#16⟩, ⟨0xF000#16, 0x5000#16⟩, ⟨0xF000#16, 0x6000#16⟩,
   ⟨0xF000#16, 0x7000#16⟩]

/-- The rows of family 8. -/
def opcodeRows8 : List OpcodeRow :=
  [⟨0xF00F#16, 0x8000#16⟩, ⟨0xF00F#16, 0x8001#16⟩, ⟨0xF00F#16, 0x8002#16⟩, ⟨0xF00F#16, 0x8003#16⟩,
   ⟨0xF00F#16, 0x8004#16⟩, ⟨0xF00F#16, 0x8005#16⟩, ⟨0xF00F#16, 0x8006#16⟩, ⟨0xF00F#16, 0x8007#16⟩,
   ⟨0xF00F#16, 0x800E#16⟩]

/-- The rows of families 9 to E. -/
def opcodeRowsHigh : List OpcodeRow :=
  [⟨0xF000#16, 0x9000#16⟩, ⟨0xF000#16, 0xA000#16⟩, ⟨0xF000#16, 0xB000#16⟩, ⟨0xF000#16, 0xC000#16⟩,
   ⟨0xF000#16, 0xD000#16⟩, ⟨0xF0FF#16, 0xE09E#16⟩, ⟨0xF0FF#16, 0xE0A1#16⟩]

/-- The rows of family F. -/
def opcodeRowsF : List OpcodeRow :=
  [⟨0xF0FF#16, 0xF007#16⟩, ⟨0xF0FF#16, 0xF00A#16⟩, ⟨0xF0FF#16, 0xF015#16⟩, ⟨0xF0FF#16, 0xF018#16⟩,
   ⟨0xF0FF#16, 0xF01E#16⟩, ⟨0xF0FF#16, 0xF029#16⟩, ⟨0xF0FF#16, 0xF033#16⟩, ⟨0xF0FF#16, 0xF055#16⟩,
   ⟨0xF0FF#16, 0xF065#16⟩]

/-- The 34 rows of R54. -/
def opcodeTable : List OpcodeRow := opcodeRowsLow ++ opcodeRows8 ++ opcodeRowsHigh ++ opcodeRowsF

/-- A word selects a row when its bits under the mask are the row's (R54). -/
def OpcodeRow.selects (row : OpcodeRow) (op : Word) : Bool := op &&& row.mask == row.word

/-- The opcode whose bits are `w`, of which the table numbers the low `nbits`; the bits above are 0. -/
def tableWord (nbits w : Nat) : Word := BitVec.ofNat 16 (w % 2 ^ nbits)

/-- What the decoder reads from an instruction numbered as spec/opcode_table.json numbers it: the word is
laid out as the memory holds it and given to `decode`. -/
def decodeTableWord (nbits w : Nat) : Option Instr :=
  match decode [hiByte (tableWord nbits w), loByte (tableWord nbits w)] with
  | .ok (i, _) => some i
  | .error _ => none

end Sys2Proof
end

