-- ==== Sys2Proof/Config.lean ====
section
/-! DEFINITION. What the host may ask of the core, what is fixed for the machine (spec 00_scope.md R7), and the
free values: what the spec leaves to the environment or to the implementation. A free value has no body, so
no proof can see which value it is and every claim holds for all of them. -/

namespace Sys2Proof.Machine

/-- What the host may ask of the core between two units: the four requests of R30 and the two host writes of
R34. Each is served as one atomic unit (R125). -/
inductive HostUnit where
  /-- Reset (R120). -/
  | initCore
  /-- Copy a ROM to 0x200 (R121). -/
  | loadProgram (bytes : List Byte)
  /-- The cycle tick (R57). -/
  | step
  /-- The timer tick (R110). -/
  | tickTimer
  /-- Write the key state (R34). -/
  | setKeys (keys : Keys)
  /-- Clear the draw flag (R34). -/
  | clearDraw
deriving DecidableEq, Repr, Inhabited

end Sys2Proof.Machine

namespace Sys2Proof.Config

/-- `MEM_SIZE` (R7). -/
def memSize : Nat := 4096

/-- `PROGRAM_BASE` (R7). -/
def programBase : Nat := 0x200

/-- `STACK_DEPTH` (R7). -/
def stackDepth : Nat := 16

/-- `FB_W` (R7). -/
def fbWidth : Nat := 64

/-- `FB_SIZE` (R7). -/
def fbSize : Nat := 2048

/-- `FONT_GLYPHS` times `GLYPH_BYTES` (R7): the size of the font block at address 0. -/
def fontSize : Nat := 80

/-- The largest ROM `loadProgram` accepts, 0x1000 - 0x200 (R121, R122). -/
def maxRom : Nat := memSize - programBase

/-- FREE VALUE. `rnd`, the random byte CXNN consumes: an unconstrained draw (R31, R85, D27). The argument
is the number of the draw (`State.draws`); log entry 2. -/
opaque rnd : Nat → Byte

/-- FREE VALUE. Which of several keys that are down FX0A takes, `FX0A_PICK` (R8, R98, D25): an index into
the list of the keys that are down, reduced modulo its length. The argument is the number of the draw
(`State.draws`); log entry 3. -/
opaque keyPick : Nat → Nat

/-- FREE VALUE. The host's requests, as an arbitrary infinite sequence of units (R126, D38); log entry 4. -/
opaque hostUnit : Nat → Machine.HostUnit

end Sys2Proof.Config
end

