-- ==== Sys2Proof/Machine/Font.lean ====
section
/-! DEFINITION. The parameter `FONT`, its default (spec 10_state.md R21) and what memory holds at reset
(R29, 20_memory.md R36). -/

namespace Sys2Proof.Machine

/-- Glyphs 0 to 7 of the default `FONT` (R21; log entry 1). -/
def fontLow : List Byte :=
  [0xF0#8, 0x90#8, 0x90#8, 0x90#8, 0xF0#8,
   0x20#8, 0x60#8, 0x20#8, 0x20#8, 0x70#8,
   0xF0#8, 0x10#8, 0xF0#8, 0x80#8, 0xF0#8,
   0xF0#8, 0x10#8, 0xF0#8, 0x10#8, 0xF0#8,
   0x90#8, 0x90#8, 0xF0#8, 0x10#8, 0x10#8,
   0xF0#8, 0x80#8, 0xF0#8, 0x10#8, 0xF0#8,
   0xF0#8, 0x80#8, 0xF0#8, 0x90#8, 0xF0#8,
   0xF0#8, 0x10#8, 0x20#8, 0x40#8, 0x40#8]

/-- Glyphs 8 to F of the default `FONT` (R21; log entry 1). -/
def fontHigh : List Byte :=
  [0xF0#8, 0x90#8, 0xF0#8, 0x90#8, 0xF0#8,
   0xF0#8, 0x90#8, 0xF0#8, 0x10#8, 0xF0#8,
   0xF0#8, 0x90#8, 0xF0#8, 0x90#8, 0x90#8,
   0xE0#8, 0x90#8, 0xE0#8, 0x90#8, 0xE0#8,
   0xF0#8, 0x80#8, 0x80#8, 0x80#8, 0xF0#8,
   0xE0#8, 0x90#8, 0x90#8, 0x90#8, 0xE0#8,
   0xF0#8, 0x80#8, 0xF0#8, 0x80#8, 0xF0#8,
   0xF0#8, 0x80#8, 0xF0#8, 0x80#8, 0x80#8]

/-- The 80 bytes of the parameter `FONT`, glyph k at 5k, top row first (R21). -/
abbrev Font := Vector Byte 80

/-- The default of `FONT` (R21; log entry 1). -/
def defaultFont : Font := ⟨⟨fontLow ++ fontHigh⟩, rfl⟩

/-- What a byte of memory holds after `initialize`: the font block at 0x000 to 0x04F, zero above (R29). An
address the memory does not list reads as this. -/
def resetByte (font : Font) (a : Nat) : Byte := if h : a < 80 then font[a] else 0x00#8

end Sys2Proof.Machine
end

