-- ==== Sys2Proof/Machine/State.lean ====
section
/-! DEFINITION. The state of the core as plain data (spec 10_state.md R13), the model's own bookkeeping
beside it, the output events, the reasons a step can stop, and the state
after reset (R29). -/

namespace Sys2Proof.Machine

/-- Why the core halted: the field `fault.cause` (R25, R102). -/
inductive FaultCause where
  /-- 0: no fault. -/
  | noFault
  /-- 1: StackFault, a push at sp = 16. -/
  | stackOverflow
  /-- 2: StackFault, a pop at sp = 0. -/
  | stackUnderflow
  /-- 3: KeyFault, a key number above 15. -/
  | keyFault
deriving DecidableEq, Repr

/-- The register `fault` (R25): written by the fault path, cleared by `initialize`, read by the host. -/
structure FaultRecord where
  cause : FaultCause
  pc : Word
  op : Word
deriving DecidableEq, Repr

/-- The output events (R33). -/
inductive Event where
  /-- The sound timer went from 1 to 0 on a timer tick (R111). -/
  | sound
  /-- An unknown opcode was met: its pc and its 16 bits (R56). -/
  | diag (pc op : Word)
deriving DecidableEq, Repr

/-- The reasons a step stops with a fault. The core itself never stops (R132): StackFault and KeyFault are
recorded in the state and the machine goes on, halted (R106). -/
inductive Fault where
  /-- Raised by `loadProgram` on a ROM of more than 3584 bytes: nothing is written, a load error is reported
  and "the host must not start stepping" (R122). Safe: the run ends. -/
  | oversizedRom
deriving DecidableEq, Repr

/-- The reasons a step is refused. -/
inductive Refusal where
  /-- Raised by an arm of `exec` whose instruction has no meaning yet. Safe. No arm answers it in this model. -/
  | notModelled (mnemonic : String)
  /-- Raised by `loadProgram` when a program is already loaded or a step has run since `initialize`: "a model
  gives the host no such move" (R124). Safe: the run ends. -/
  | lateLoad
deriving DecidableEq, Repr

structure State where
  /-- The bytes of `mem` that differ from the reset contents, addresses rising (R13, R35; log entry 9). -/
  mem : List Host.Cell
  /-- The general registers V0 to VF (R14). -/
  v : Vector Byte 16
  /-- The index register I (R16). -/
  i : Word
  /-- The program counter (R17). -/
  pc : Word
  /-- The call stack (R18). -/
  stack : Vector Word 16
  /-- The number of stack entries in use, 0 to 16 (R18; log entry 10). -/
  sp : Fin 17
  /-- The delay timer DT (R19). -/
  dt : Byte
  /-- The sound timer ST (R20). -/
  st : Byte
  /-- The framebuffer (R22). -/
  fb : Framebuffer
  /-- The keypad (R23). -/
  key : Keys
  /-- The draw flag (R24). -/
  drawFlag : Bool
  /-- The fault record (R25). -/
  fault : FaultRecord
  /-- The output register `wait_key` (R26). -/
  waitKey : Bool
  /-- The parameter `FONT` (R8, R21): it is no element of R13 and no unit changes it (log entry 1). -/
  font : Font
  /-- MODEL'S OWN: the units the host has requested and the core has not served, oldest first (R126; log
  entry 4). -/
  schedule : List HostUnit
  /-- MODEL'S OWN: what the host requests once the schedule is served (R126; log entry 4): `none`, `step` for
  ever; `some n`, the units of the free sequence `Config.hostUnit` from number n on. -/
  stream : Option Nat
  /-- MODEL'S OWN: the events emitted so far, oldest first (R33; log entry 5). -/
  events : List Event
  /-- MODEL'S OWN: nothing was loaded and no step ran since `initialize`, so the host may still call
  `loadProgram` (R124; log entry 6). -/
  loadOpen : Bool
  /-- MODEL'S OWN: how many free values were drawn (log entries 2 and 3). -/
  draws : Nat
deriving DecidableEq, Repr

/-- The fault record with nothing in it (R29). -/
def FaultRecord.clear : FaultRecord := ⟨.noFault, 0x0000#16, 0x0000#16⟩

/-- The machine after `initialize()`, for any `FONT` (R29, R120): memory holds its reset contents (nothing is
listed), pc is 0x200, every other element is 0. -/
def State.resetWith (font : Font) : State where
  mem := []
  v := Vector.replicate 16 0x00#8
  i := 0x0000#16
  pc := 0x0200#16
  stack := Vector.replicate 16 0x0000#16
  sp := 0
  dt := 0x00#8
  st := 0x00#8
  fb := Vector.replicate 32 0#64
  key := 0x0000#16
  drawFlag := false
  fault := FaultRecord.clear
  waitKey := false
  font := font
  schedule := []
  stream := none
  events := []
  loadOpen := true
  draws := 0

/-- The machine after `initialize()`, with `FONT` at its default (R21; log entry 1). -/
def State.reset : State := State.resetWith defaultFont

end Sys2Proof.Machine
end

