-- ==== Sys2Proof/Machine/Ops.lean ====
section
/-! DEFINITION. The named operations over the state: memory, registers, stack, framebuffer, timers, events,
and taking a fault (spec 00_scope.md R10, 20_memory.md, 60_exceptions.md R106). -/

namespace Sys2Proof.Machine

/-! ### Memory as a canonical list -/

/-- A memory: the bytes that differ from the reset contents, which the parameter `FONT` fixes. -/
abbrev Memory := List Host.Cell

/-- The byte at an address below 4096 (R38). -/
def Memory.read (font : Font) : Memory → Nat → Byte
  | [], a => resetByte font a
  | (b, w) :: m, a => if a = b then w else Memory.read font m a

/-- The cells without those at an address. -/
def Memory.drop : Memory → Nat → Memory
  | [], _ => []
  | (b, w) :: m, a => if a = b then Memory.drop m a else (b, w) :: Memory.drop m a

/-- The cells with one set, in rising order. -/
def Memory.put : Memory → Nat → Byte → Memory
  | [], a, x => [(a, x)]
  | (b, w) :: m, a, x =>
    if a < b then (a, x) :: (b, w) :: m
    else if a = b then (a, x) :: m
    else (b, w) :: Memory.put m a x

/-- Setting the byte at an address below 4096 (R39). Writing the reset contents removes the cell, so equal
memories are equal lists. -/
def Memory.write (font : Font) (m : Memory) (a : Nat) (x : Byte) : Memory :=
  if x = resetByte font a then Memory.drop m a else Memory.put m a x

/-- The canonical form from an address up: rising addresses below 4096, no cell equal to the reset contents. -/
def Memory.wfFrom (font : Font) : Nat → Memory → Bool
  | _, [] => true
  | lo, (a, x) :: m =>
    decide (lo ≤ a) && decide (a < Config.memSize) && (x != resetByte font a) && Memory.wfFrom font (a + 1) m

/-- The canonical form of a memory. -/
def Memory.wf (font : Font) (m : Memory) : Bool := Memory.wfFrom font 0 m

/-- The address a memory access uses: reduced modulo 4096, never a fault (R37). -/
def wrap (a : Nat) : Nat := a % Config.memSize

/-- Storing bytes at rising addresses, each reduced modulo 4096, in order (R39, R45). -/
def Memory.store (font : Font) : Memory → Nat → List Byte → Memory
  | m, _, [] => m
  | m, a, x :: xs => Memory.store font (Memory.write font m (wrap a) x) (a + 1) xs

/-- `MemRead(a, 1)` (R38). -/
def State.memRead (s : State) (a : Nat) : Byte := Memory.read s.font s.mem (wrap a)

/-- `MemWrite` of bytes at a, a+1, ... (R39). -/
def State.memStore (s : State) (a : Nat) (xs : List Byte) : State :=
  { s with mem := Memory.store s.font s.mem a xs }

/-- The opcode at pc, big-endian, both addresses reduced modulo 4096 (R37, R41). -/
def State.fetch (s : State) : Word := joinBytes (s.memRead s.pc.toNat) (s.memRead (s.pc.toNat + 1))

/-! ### Registers -/

/-- `V[x]` (R14). -/
def State.reg (s : State) (x : Nibble) : Byte := s.v[x.toNat]'x.isLt

/-- `V[x] <- b` (R14). -/
def State.setReg (s : State) (x : Nibble) (b : Byte) : State := { s with v := s.v.set x.toNat b x.isLt }

/-- VF is V15 (R15). -/
def vf : Nibble := 0xF#4

/-- `VF <- b` (R15). -/
def State.setVF (s : State) (b : Byte) : State := s.setReg vf b

/-- `I <- w` (R16). -/
def State.setIndex (s : State) (w : Word) : State := { s with i := w }

/-- `pc <- w` (R17). -/
def State.setPc (s : State) (w : Word) : State := { s with pc := w }

/-- `pc <- (pc + 2) mod 2^16` (R17). -/
def State.advance (s : State) : State := s.setPc (s.pc + 2#16)

/-- A skip instruction's pc: `pc + 4` when taken, `pc + 2` when not, modulo 2^16 (R68). -/
def State.skipIf (s : State) (taken : Bool) : State :=
  s.setPc (if taken then s.pc + 4#16 else s.pc + 2#16)

/-- `DT <- b` (R19). -/
def State.setDt (s : State) (b : Byte) : State := { s with dt := b }

/-- `ST <- b` (R20). -/
def State.setSt (s : State) (b : Byte) : State := { s with st := b }

/-- `wait_key <- b` (R26). -/
def State.setWait (s : State) (b : Bool) : State := { s with waitKey := b }

/-- `V[k] <- b` for the bytes of a list, k counting up from a number (R93). -/
def State.setRegsFrom : State → Nat → List Byte → State
  | s, _, [] => s
  | s, k, b :: bs => State.setRegsFrom (s.setReg (BitVec.ofNat 4 k) b) (k + 1) bs

/-! ### The call stack -/

/-- Push a return address: none when 16 entries are in use, else `stack[sp] <- w; sp <- sp + 1` (R18, R67). -/
def State.push (s : State) (w : Word) : Option State :=
  if h : s.sp.val < 16 then
    some { s with stack := s.stack.set s.sp.val w h, sp := ⟨s.sp.val + 1, Nat.succ_lt_succ h⟩ }
  else none

/-- Pop a return address: none when no entry is in use, else `sp <- sp - 1` and the entry there, which keeps
its value (R18, R65). -/
def State.pop (s : State) : Option (Word × State) :=
  match s.sp with
  | ⟨0, _⟩ => none
  | ⟨n + 1, h⟩ =>
    some (s.stack[n]'(Nat.lt_of_succ_lt_succ h), { s with sp := ⟨n, Nat.lt_of_succ_lt h⟩ })

/-! ### The framebuffer -/

/-- Every pixel 0 (R29, R63). -/
def fbBlank : Framebuffer := Vector.replicate 32 0#64

/-- `fb[p]` (R22). -/
def fbPixel (fb : Framebuffer) (p : Nat) : Bool :=
  if h : p / 64 < 32 then (fb[p / 64]'h).getLsbD (p % 64) else false

/-- `fb[p] <- fb[p] ^ 1` (R64). -/
def fbFlip (fb : Framebuffer) (p : Nat) : Framebuffer :=
  if h : p / 64 < 32 then fb.set (p / 64) (fb[p / 64]'h ^^^ BitVec.twoPow 64 (p % 64)) h else fb

/-- The framebuffer port: the pixel at an index (R115). -/
def State.pixel (s : State) (p : Nat) : Bool := fbPixel s.fb p

/-- Write the framebuffer and set the draw flag (R24, R63, R64). -/
def State.setFb (s : State) (fb : Framebuffer) : State := { s with fb := fb, drawFlag := true }

/-! ### Events and free values -/

/-- `emit e`: an output, no element of R13 changes (R33). -/
def State.emit (s : State) (e : Event) : State := { s with events := s.events ++ [e] }

/-- The free value drawn last is used up (log entries 2 and 3). -/
def State.drawn (s : State) : State := { s with draws := s.draws + 1 }

/-! ### Faults -/

/-- The core is halted exactly when `fault.cause` is not 0 (R25). -/
def State.halted (s : State) : Bool := s.fault.cause != .noFault

/-- Taking a fault: the cause, the pc and the opcode of the faulting instruction are recorded and nothing else
is written; there is no handler, vector or saved state (R104, R106). There is no return from a fault:
only `initialize` clears it (R108). The opcode is the encoding of the faulting instruction, which is the fetched
word (DEDUCED, log entry 8). -/
def State.takeFault (s : State) (cause : FaultCause) (op : Word) : State :=
  { s with fault := ⟨cause, s.pc, op⟩ }

/-- The field `fault.cause` as its two output bits (R25, R32). -/
def FaultCause.code : FaultCause → BitVec 2
  | .noFault => 0#2
  | .stackOverflow => 1#2
  | .stackUnderflow => 2#2
  | .keyFault => 3#2

end Sys2Proof.Machine
end

