-- ==== Sys2Proof/Machine/Operands.lean ====
section
/-! DEFINITION. The operand forms (spec 30_encoding.md R52, 44_index_memory.md R94): immediates, absolute and
V0-relative addresses, index-relative bytes, sprite pixels, the keys. -/

namespace Sys2Proof.Machine

/-- `zext_16(nnn)` (R50). -/
def absolute (nnn : Addr12) : Word := nnn.setWidth 16

/-- `zext_16(V[0]) + zext_16(nnn)`, the target of BNNN (R72). -/
def v0Relative (s : State) (nnn : Addr12) : Word := (s.reg 0x0#4).setWidth 16 + absolute nnn

/-- The address of the k-th byte an instruction reaches through I, before it is reduced modulo 4096 (R94). -/
def indexed (s : State) (k : Nat) : Nat := s.i.toNat + k

/-- `V[0]`, ..., `V[x]`, the bytes FX55 stores (R92). -/
def regsUpTo (s : State) (x : Nibble) : List Byte :=
  (List.range (x.toNat + 1)).map (fun k => s.reg (BitVec.ofNat 4 k))

/-- The bytes at I, ..., I + x, which FX65 loads (R93). -/
def bytesUpTo (s : State) (x : Nibble) : List Byte :=
  (List.range (x.toNat + 1)).map (fun k => s.memRead (indexed s k))

/-- `(I + x + 1) mod 2^16`, the index after FX55 and FX65 (R92, R93). -/
def indexAfter (s : State) (x : Nibble) : Word := BitVec.ofNat 16 (s.i.toNat + x.toNat + 1)

/-- The address of a font glyph: the whole byte times 5, no mask (R90). -/
def glyphAddress (b : Byte) : Word := BitVec.ofNat 16 (b.toNat * 5)

/-- The three decimal digits, hundreds first (R91). -/
def decimalDigits (b : Byte) : List Byte :=
  [BitVec.ofNat 8 (b.toNat / 100), BitVec.ofNat 8 (b.toNat / 10 % 10), BitVec.ofNat 8 (b.toNat % 10)]

/-- The framebuffer index of row r, column offset c of a sprite drawn at (X, Y): linear wrap (R62). -/
def pixelIndex (X Y : Byte) (r c : Nat) : Nat :=
  (X.toNat + c + Config.fbWidth * (Y.toNat + r)) % Config.fbSize

/-- The bit of a row byte at a column offset: bit 7 is the leftmost pixel (R62). -/
def rowBit (row : Byte) (c : Nat) : Bool := row.getLsbD (7 - c)

/-- `key[k] = 1` (R23). -/
def keyDown (keys : Keys) (k : Nat) : Bool := keys.getLsbD k

/-- The numbers of the keys that are down, rising. -/
def keysDown (keys : Keys) : List Nat := (List.range 16).filter (keyDown keys)

/-- `FX0A_PICK` on the keys that are down, the first of them and the others: one of them, which one being the
free value of a draw (R98, D25; log entry 3). -/
def pickKey (k : Nat) (ks : List Nat) (draw : Nat) : Nat :=
  (k :: ks).getD (Config.keyPick draw % (ks.length + 1)) k

end Sys2Proof.Machine
end

