-- ==== Sys2Proof/Machine/Alu.lean ====
section
/-! DEFINITION. Register loads, the ALU and its flags (spec 43_alu.md). Operands are read first, the result is
written, then the flag, so a destination VF ends with the flag (R15, R87). -/

namespace Sys2Proof.Machine

/-- 6XNN (R74). -/
def execLdImm (x : Nibble) (nn : Byte) (s : State) : Host.Outcome State Fault Refusal :=
  .next (s.setReg x nn).advance

/-- 7XNN: no flag (R75). -/
def execAddImm (x : Nibble) (nn : Byte) (s : State) : Host.Outcome State Fault Refusal :=
  .next (s.setReg x (s.reg x + nn)).advance

/-- 8XY0 (R76). -/
def execLdReg (x y : Nibble) (s : State) : Host.Outcome State Fault Refusal :=
  .next (s.setReg x (s.reg y)).advance

/-- 8XY1: no flag (R77). -/
def execOrReg (x y : Nibble) (s : State) : Host.Outcome State Fault Refusal :=
  .next (s.setReg x (s.reg x ||| s.reg y)).advance

/-- 8XY2: no flag (R78). -/
def execAndReg (x y : Nibble) (s : State) : Host.Outcome State Fault Refusal :=
  .next (s.setReg x (s.reg x &&& s.reg y)).advance

/-- 8XY3: no flag (R79). -/
def execXorReg (x y : Nibble) (s : State) : Host.Outcome State Fault Refusal :=
  .next (s.setReg x (s.reg x ^^^ s.reg y)).advance

/-- 8XY4 (R80). -/
def execAddReg (x y : Nibble) (s : State) : Host.Outcome State Fault Refusal :=
  .next ((s.setReg x (s.reg x + s.reg y)).setVF (flagByte (carry (s.reg x) (s.reg y)))).advance

/-- 8XY5 (R81). -/
def execSub (x y : Nibble) (s : State) : Host.Outcome State Fault Refusal :=
  .next ((s.setReg x (s.reg x - s.reg y)).setVF (flagByte (notBorrow (s.reg x) (s.reg y)))).advance

/-- 8XY6: the old Vy is shifted into both Vx and Vy (R82). -/
def execShr (x y : Nibble) (s : State) : Host.Outcome State Fault Refusal :=
  .next (((s.setReg x (s.reg y >>> 1)).setReg y (s.reg y >>> 1)).setVF
    (flagByte (shiftedOutRight (s.reg y)))).advance

/-- 8XY7 (R83). -/
def execSubn (x y : Nibble) (s : State) : Host.Outcome State Fault Refusal :=
  .next ((s.setReg x (s.reg y - s.reg x)).setVF (flagByte (notBorrow (s.reg y) (s.reg x)))).advance

/-- 8XYE: the old Vy is shifted into both Vx and Vy (R84). -/
def execShl (x y : Nibble) (s : State) : Host.Outcome State Fault Refusal :=
  .next (((s.setReg x (s.reg y <<< 1)).setReg y (s.reg y <<< 1)).setVF
    (flagByte (shiftedOutLeft (s.reg y)))).advance

/-- CXNN: the random byte is a free value (R85; log entry 2). -/
def execRnd (x : Nibble) (nn : Byte) (s : State) : Host.Outcome State Fault Refusal :=
  .next (s.setReg x (Config.rnd s.draws &&& nn)).drawn.advance

end Sys2Proof.Machine
end

