-- ==== Sys2Proof/Machine/Control.lean ====
section
/-! DEFINITION. Control transfer, the call stack and the skips (spec 42_control.md). -/

namespace Sys2Proof.Machine

/-- 00EE: at sp = 0 StackFault (underflow), else pc is the popped address plus 2 (R65). -/
def execRet (s : State) : Host.Outcome State Fault Refusal :=
  match s.pop with
  | none => .next (s.takeFault .stackUnderflow (encode .ret))
  | some (w, t) => .next (t.setPc (w + 2#16))

/-- 1NNN (R66). -/
def execJp (nnn : Addr12) (s : State) : Host.Outcome State Fault Refusal :=
  .next (s.setPc (absolute nnn))

/-- 2NNN: at sp = 16 StackFault (overflow), else the call's own pc is pushed (R67). -/
def execCall (nnn : Addr12) (s : State) : Host.Outcome State Fault Refusal :=
  match s.push s.pc with
  | none => .next (s.takeFault .stackOverflow (encode (.call nnn)))
  | some t => .next (t.setPc (absolute nnn))

/-- 3XNN (R68). -/
def execSeImm (x : Nibble) (nn : Byte) (s : State) : Host.Outcome State Fault Refusal :=
  .next (s.skipIf (s.reg x == nn))

/-- 4XNN (R69). -/
def execSneImm (x : Nibble) (nn : Byte) (s : State) : Host.Outcome State Fault Refusal :=
  .next (s.skipIf (s.reg x != nn))

/-- 5XY0 (R70). -/
def execSeReg (x y : Nibble) (s : State) : Host.Outcome State Fault Refusal :=
  .next (s.skipIf (s.reg x == s.reg y))

/-- 9XY0 (R71). -/
def execSneReg (x y : Nibble) (s : State) : Host.Outcome State Fault Refusal :=
  .next (s.skipIf (s.reg x != s.reg y))

/-- BNNN: always V0, never VX (R72). -/
def execJpV0 (nnn : Addr12) (s : State) : Host.Outcome State Fault Refusal :=
  .next (s.setPc (v0Relative s nnn))

end Sys2Proof.Machine
end

