-- ==== Sys2Proof/Machine/Display.lean ====
section
/-! DEFINITION. The display instructions and the collision detector (spec 41_display.md). -/

namespace Sys2Proof.Machine

/-- Draw one set bit of a sprite at a framebuffer index: note a collision, then toggle the pixel (R64). The
pair is the framebuffer and `collided`. -/
def drawPixel (acc : Framebuffer × Bool) (p : Nat) : Framebuffer × Bool :=
  (fbFlip acc.1 p, acc.2 || fbPixel acc.1 p)

/-- Draw row r of a sprite at (X, Y): columns 0 to 7 in order, 0-bits leave their pixel alone (R62, R64). -/
def drawRow (X Y : Byte) (r : Nat) (row : Byte) (acc : Framebuffer × Bool) : Framebuffer × Bool :=
  (List.range 8).foldl
    (fun acc c => if rowBit row c then drawPixel acc (pixelIndex X Y r c) else acc) acc

/-- Draw the n rows of the sprite at I (R64). -/
def drawSprite (X Y : Byte) (n : Nat) (s : State) : Framebuffer × Bool :=
  (List.range n).foldl (fun acc r => drawRow X Y r (s.memRead (indexed s r)) acc) (s.fb, false)

/-- 00E0: every pixel 0, the draw flag set even on a clear screen (R63). -/
def execCls (s : State) : Host.Outcome State Fault Refusal :=
  .next (s.setFb fbBlank).advance

/-- DXYN: the coordinates are read before VF is written; VF and the draw flag are always written (R64). -/
def execDrw (x y n : Nibble) (s : State) : Host.Outcome State Fault Refusal :=
  let drawn := drawSprite (s.reg x) (s.reg y) n.toNat s
  .next ((s.setFb drawn.1).setVF (flagByte drawn.2)).advance

end Sys2Proof.Machine
end

