-- ==== Sys2Proof/Machine/IndexMemory.lean ====
section
/-! DEFINITION. The index register and the memory instructions (spec 44_index_memory.md). -/

namespace Sys2Proof.Machine

/-- ANNN (R88). -/
def execLdI (nnn : Addr12) (s : State) : Host.Outcome State Fault Refusal :=
  .next (s.setIndex (absolute nnn)).advance

/-- FX1E: I is 16 bits and is not masked; the range flag is written in both directions, last (R89). -/
def execAddI (x : Nibble) (s : State) : Host.Outcome State Fault Refusal :=
  .next ((s.setIndex (BitVec.ofNat 16 (s.i.toNat + (s.reg x).toNat))).setVF
    (flagByte (indexOverflow s.i (s.reg x)))).advance

/-- FX29 (R90). -/
def execLdF (x : Nibble) (s : State) : Host.Outcome State Fault Refusal :=
  .next (s.setIndex (glyphAddress (s.reg x))).advance

/-- FX33: I is unchanged (R91). -/
def execLdB (x : Nibble) (s : State) : Host.Outcome State Fault Refusal :=
  .next (s.memStore (indexed s 0) (decimalDigits (s.reg x))).advance

/-- FX55: I advances by x + 1 (R92). -/
def execLdMemVx (x : Nibble) (s : State) : Host.Outcome State Fault Refusal :=
  .next ((s.memStore (indexed s 0) (regsUpTo s x)).setIndex (indexAfter s x)).advance

/-- FX65: I advances by x + 1; VF is an ordinary destination (R93). -/
def execLdVxMem (x : Nibble) (s : State) : Host.Outcome State Fault Refusal :=
  .next ((s.setRegsFrom 0 (bytesUpTo s x)).setIndex (indexAfter s x)).advance

end Sys2Proof.Machine
end

