-- ==== Sys2Proof/Machine/KeysTimers.lean ====
section
/-! DEFINITION. The keypad and timer-register instructions (spec 45_keys_timers.md). -/

namespace Sys2Proof.Machine

/-- EX9E: a key number above 15 is a KeyFault, checked before anything is written (R95). -/
def execSkp (x : Nibble) (s : State) : Host.Outcome State Fault Refusal :=
  if (s.reg x).toNat > 15 then .next (s.takeFault .keyFault (encode (.skp x)))
  else .next (s.skipIf (keyDown s.key (s.reg x).toNat))

/-- EXA1: a key number above 15 is a KeyFault, checked before anything is written (R96). -/
def execSknp (x : Nibble) (s : State) : Host.Outcome State Fault Refusal :=
  if (s.reg x).toNat > 15 then .next (s.takeFault .keyFault (encode (.sknp x)))
  else .next (s.skipIf (!keyDown s.key (s.reg x).toNat))

/-- FX07 (R97). -/
def execLdVxDt (x : Nibble) (s : State) : Host.Outcome State Fault Refusal :=
  .next (s.setReg x s.dt).advance

/-- FX0A: with no key down only `wait_key` is written and pc stays; else one of the keys that are down is
loaded (R98; log entry 3). -/
def execLdVxK (x : Nibble) (s : State) : Host.Outcome State Fault Refusal :=
  match keysDown s.key with
  | [] => .next (s.setWait true)
  | k :: ks => .next (s.setReg x (BitVec.ofNat 8 (pickKey k ks s.draws))).drawn.advance

/-- FX15 (R99). -/
def execLdDtVx (x : Nibble) (s : State) : Host.Outcome State Fault Refusal :=
  .next (s.setDt (s.reg x)).advance

/-- FX18: no event, even when it writes 0 over 1 (R100). -/
def execLdStVx (x : Nibble) (s : State) : Host.Outcome State Fault Refusal :=
  .next (s.setSt (s.reg x)).advance

end Sys2Proof.Machine
end

