-- ==== Sys2Proof/WellFormed.lean ====
section
/-! DEFINITION. What is well formed. Every term of `Instr` is: its fields have exactly the widths of spec
30_encoding.md R50, so no check is left to make on an instruction. What is checked is what the host
hands over: the size of a ROM (70_reset_and_hazards.md R121, R122) and the order of its requests (R124). -/

namespace Sys2Proof.Machine

/-- A request the core can serve as asked: the ROM of a `loadProgram` fits (R121, R122). -/
def HostUnit.wellFormed : HostUnit → Bool
  | .loadProgram bytes => decide (bytes.length ≤ Config.maxRom)
  | .initCore => true
  | .step => true
  | .tickTimer => true
  | .setKeys _ => true
  | .clearDraw => true

/-- Whether the host may still load a program after a request, given whether it might before (R124: once,
after `initialize` and before the first step). -/
def HostUnit.loadOpenAfter : HostUnit → Bool → Bool
  | .initCore, _ => true
  | .loadProgram _, _ => false
  | .step, _ => false
  | .tickTimer, o => o
  | .setKeys _, o => o
  | .clearDraw, o => o

/-- Whether a request is in its place in the boot order (R124): only `loadProgram` can be out of it. -/
def HostUnit.inOrder : HostUnit → Bool → Bool
  | .loadProgram _, o => o
  | .initCore, _ => true
  | .step, _ => true
  | .tickTimer, _ => true
  | .setKeys _, _ => true
  | .clearDraw, _ => true

/-- A sequence of requests that keeps the host's protocol, from a state in which a load is (or is not) still
allowed (R122, R124). -/
def scheduleWellFormed : Bool → List HostUnit → Bool
  | _, [] => true
  | o, u :: us => u.wellFormed && u.inOrder o && scheduleWellFormed (u.loadOpenAfter o) us

end Sys2Proof.Machine
end

