-- ==== Sys2Proof/Machine/Units.lean ====
section
/-! DEFINITION. The units the core serves, each atomic (spec 70_reset_and_hazards.md R125): the cycle tick, the
timer tick, reset, the program load and the host's two writes. -/

namespace Sys2Proof.Machine

/-- An unknown opcode: the diagnostic event and pc + 2, nothing else (R56). -/
def skipUnknown (op : Word) (s : State) : State := (s.emit (.diag s.pc op)).advance

/-- The core's `step()` (R57): halted, nothing changes (R59); else fetch, clear `wait_key`, decode and perform
the row's rule (`wait_key` in a halted or faulting step: DEDUCED, log entry 11). From the first step on no
program may be loaded (R124; DESIGN CHOICE, log entry 6). -/
def cycle (s : State) : Host.Outcome State Fault Refusal :=
  if s.halted then .next s
  else
    match decodeWord s.fetch with
    | .ok i => exec i { s with waitKey := false, loadOpen := false }
    | .error _ => .next (skipUnknown s.fetch { s with waitKey := false, loadOpen := false })

/-- `initialize()` (R120): every element of R13 at its reset value. `FONT` is the parameter, and
the model's own requests, event log and draw counter stay (log entry 14). -/
def initCore (s : State) : State :=
  { State.resetWith s.font with
    schedule := s.schedule, stream := s.stream, events := s.events, draws := s.draws }

/-- `loadProgram(bytes)` (R121): the bytes go to 0x200 up, nothing else changes. Out of its place in the boot
order it is no move of the host (R124); a ROM of more than 3584 bytes is a load error (R122). -/
def loadProgram (bytes : List Byte) (s : State) : Host.Outcome State Fault Refusal :=
  if s.loadOpen then
    if bytes.length ≤ Config.maxRom then
      .next { s.memStore Config.programBase bytes with loadOpen := false }
    else .fault .oversizedRom
  else .refused .lateLoad

/-- The delay timer's half of `tickTimer()` (R110). -/
def tickDelay (s : State) : State := if s.dt.toNat > 0 then s.setDt (s.dt - 1#8) else s

/-- The sound timer's half of `tickTimer()`: Sound is emitted before the decrement from 1 to 0 (R110, R111). -/
def tickSound (s : State) : State :=
  if s.st.toNat > 0 then
    (if s.st.toNat = 1 then s.emit .sound else s).setSt (s.st - 1#8)
  else s

/-- `tickTimer()`: runs the same whether the core is halted, waiting or running (R110). -/
def tickTimer (s : State) : State := tickSound (tickDelay s)

/-- `setKeys` (R34). -/
def setKeys (keys : Keys) (s : State) : State := { s with key := keys }

/-- `clearDraw` (R34, R116). -/
def clearDraw (s : State) : State := { s with drawFlag := false }

/-- Serve one unit (R125). -/
def serve (u : HostUnit) (s : State) : Host.Outcome State Fault Refusal :=
  match u with
  | .initCore => .next (initCore s)
  | .loadProgram bytes => loadProgram bytes s
  | .step => cycle s
  | .tickTimer => .next (tickTimer s)
  | .setKeys keys => .next (setKeys keys s)
  | .clearDraw => .next (clearDraw s)

/-- The unit the host requests next: the oldest of the schedule; once that is served, `step` for ever or the next
unit of the free sequence (R126; log entry 4). -/
def State.nextUnit (s : State) : HostUnit :=
  match s.schedule with
  | u :: _ => u
  | [] =>
    match s.stream with
    | none => .step
    | some n => Config.hostUnit n

/-- The state once that unit is taken from the host's requests. -/
def State.takeUnit (s : State) : State :=
  { s with
    schedule := s.schedule.tail
    stream := if s.schedule.isEmpty then s.stream.map (· + 1) else s.stream }

/-- Serve the unit the host requests next (R125, R126). -/
def serveNext (s : State) : Host.Outcome State Fault Refusal := serve s.nextUnit s.takeUnit

/-- The state with an instruction's two bytes stored at pc, a `step` requested before all else and no fault
recorded, so that the very next step runs it (log entry 13). -/
def placeWord (op : Word) (s : State) : State :=
  { s.memStore s.pc.toNat [hiByte op, loByte op] with
    schedule := .step :: s.schedule, fault := FaultRecord.clear }

end Sys2Proof.Machine
end

