-- ==== Sys2Proof/Machine/Step.lean ====
section
/-! DEFINITION. One step of the machine: one unit is served (spec 70_reset_and_hazards.md R125, R126). -/

namespace Sys2Proof.Machine

/-- One step: the unit the host requests next. -/
def step (s : State) : Host.Outcome State Fault Refusal := Sys2Proof.Machine.serveNext s

/-- The state with the instruction whose table bits are `w` where the next step fetches it (log entry 13). -/
def State.withFetchWord (s : State) (nbits w : Nat) : State :=
  Sys2Proof.Machine.placeWord (Sys2Proof.tableWord nbits w) s

end Sys2Proof.Machine
end

