-- ==== Sys2Proof/Safety.lean ====
section
/-! DEFINITION. The end states a claim can name (spec 70_reset_and_hazards.md R132) and the invariant of the
machine (10_state.md R28, 60_exceptions.md R106), in the terms claims use. -/

namespace Sys2Proof.Machine

/-- *Parked*: the word at pc is a 1NNN whose NNN is pc, a jump to itself (R132). -/
def State.parked (s : State) : Bool :=
  match decodeWord s.fetch with
  | .ok (.jp nnn) => absolute nnn == s.pc
  | _ => false

/-- *Waiting*: the word at pc is an FX0A and no key is down (R132). -/
def State.waiting (s : State) : Bool :=
  match decodeWord s.fetch with
  | .ok (.ldVxK _) => s.key == 0x0000#16
  | _ => false

/-- An instruction faults in a state exactly under these conditions, with these causes (R102). -/
def faultOf (i : Instr) (s : State) : FaultCause :=
  match i with
  | .call _ => if s.sp.val = 16 then .stackOverflow else .noFault
  | .ret => if s.sp.val = 0 then .stackUnderflow else .noFault
  | .skp x => if (s.reg x).toNat > 15 then .keyFault else .noFault
  | .sknp x => if (s.reg x).toNat > 15 then .keyFault else .noFault
  | _ => .noFault

/-- What every reachable state satisfies. -/
structure Inv (s : State) : Prop where
  /-- Memory is in its canonical form. -/
  memCanonical : Memory.wf s.font s.mem = true
  /-- With no fault the record is clear (R28). -/
  noFaultClear : s.fault.cause = .noFault → s.fault = FaultRecord.clear
  /-- A halted core shows the faulting instruction: its pc, its opcode, and an instruction that raises the
  recorded cause in this very state (R104, R106: nothing else was written). -/
  faultShown : s.fault.cause ≠ .noFault → s.fault.pc = s.pc ∧ s.fault.op = s.fetch ∧ s.loadOpen = false ∧
    ∃ i, decodeWord s.fetch = .ok i ∧ faultOf i s = s.fault.cause
  /-- `wait_key` is up only while an FX0A stands at pc and the core runs (R26, R98). -/
  waitShown : s.waitKey = true → s.fault.cause = .noFault ∧ s.loadOpen = false ∧
    ∃ x, decodeWord s.fetch = .ok (.ldVxK x)
  /-- While a program may still be loaded every element but the keys is at its reset value (R124). -/
  bootUntouched : s.loadOpen = true →
    s = { State.resetWith s.font with
      key := s.key, schedule := s.schedule, stream := s.stream, events := s.events, draws := s.draws }

/-- The next k units the host requests, in order (R126). -/
def requested : Nat → State → List HostUnit
  | 0, _ => []
  | k + 1, s => s.nextUnit :: requested k s.takeUnit

/-- The host keeps the protocol for ever: however many of its requests are looked at, every ROM fits and every
load is in its place (R122, R124). -/
def KeepsProtocol (s : State) : Prop := ∀ k, scheduleWellFormed s.loadOpen (requested k s) = true

end Sys2Proof.Machine
end

