-- ==== Sys2Proof/Certificates/Slice0/Obligations.lean ====
section
/-! DEFINITION. The statements for the provers. Each formalises rules of spec/ (its docstring names them); none
rests on a value the model chose. Where a free value appears (`Config.rnd`, a key of several) the
statement holds whatever that value is. `FONT` is a parameter in the state, so every statement over all states
holds for every `FONT` (log entry 1). The host's requests (a schedule and what follows it, which may be any
infinite sequence of units), the event log, the load window and the draw counter are the model's own form of rules on the host and the environment (log entries 2 to 6); a statement about
them is derived and cites no rule for that part.

The parts of a frame come first: each says that one part of the state is unchanged. Memory is compared
through the model's read of one byte, at every address. -/

namespace Sys2Proof.Claims

open Sys2Proof.Machine

/-- Every byte of memory reads as before. -/
def MemoryKept (s t : State) : Prop := ∀ a, t.memRead a = s.memRead a

/-- Every general register, VF among them. -/
def RegsKept (s t : State) : Prop := ∀ r, t.reg r = s.reg r

/-- The index register. -/
def IndexKept (s t : State) : Prop := t.i = s.i

/-- The stack pointer and every stack entry, popped ones too. -/
def StackKept (s t : State) : Prop := t.sp = s.sp ∧ t.stack = s.stack

/-- Both timers. -/
def TimersKept (s t : State) : Prop := t.dt = s.dt ∧ t.st = s.st

/-- Every pixel and the draw flag. -/
def DisplayKept (s t : State) : Prop := (∀ p < 2048, t.pixel p = s.pixel p) ∧ t.drawFlag = s.drawFlag

/-- The fault record and `wait_key`. -/
def StatusKept (s t : State) : Prop := t.fault = s.fault ∧ t.waitKey = s.waitKey

/-- What only the host or an event changes: the keys, the requests, the event log, the load window; and the
parameter `FONT`. -/
def HostKept (s t : State) : Prop :=
  t.key = s.key ∧ t.schedule = s.schedule ∧ t.stream = s.stream ∧ t.events = s.events ∧
  t.loadOpen = s.loadOpen ∧ t.font = s.font

/-- No free value was drawn. -/
def DrawsKept (s t : State) : Prop := t.draws = s.draws

/-- Everything but memory, the general registers, I, the display, pc and the draw counter. -/
def CoreKept (s t : State) : Prop := StackKept s t ∧ TimersKept s t ∧ StatusKept s t ∧ HostKept s t

/-- Nothing but general registers and pc may have changed. -/
def OnlyRegsAndPc (s t : State) : Prop :=
  MemoryKept s t ∧ IndexKept s t ∧ DisplayKept s t ∧ CoreKept s t ∧ DrawsKept s t

/-- Nothing but pc may have changed. -/
def OnlyPc (s t : State) : Prop := RegsKept s t ∧ OnlyRegsAndPc s t

/-- Every word whose bits under the mask are `word` decodes to the instruction its fields give. -/
def DecodesAs (mask word : Word) (instr : Word → Instr) : Prop :=
  ∀ op : Word, op &&& mask = word → decodeWord op = .ok (instr op)

/-- The unit the next step serves: the oldest request; with none, `step` or the next of the free sequence. -/
def nextUnit (s : State) : HostUnit :=
  match s.schedule, s.stream with
  | u :: _, _ => u
  | [], none => .step
  | [], some n => Config.hostUnit n

/-- The state once that unit is taken from the host's requests. -/
def taken (s : State) : State :=
  { s with
    schedule := s.schedule.tail
    stream := if s.schedule.isEmpty then s.stream.map (· + 1) else s.stream }

/-- The unit the host requests as number j, counted from the next one (log entry 4). -/
def unitAt (s : State) (j : Nat) : HostUnit := nextUnit (taken^[j] s)

/-- The state an instruction is performed in: the unit taken, `wait_key` cleared, the load window closed. -/
def started (s : State) : State := { taken s with waitKey := false, loadOpen := false }

/-- The opcode at pc, spelt out: the byte at pc in bits 15 to 8, the byte at pc + 1 in bits 7 to 0. -/
def opAtPc (s : State) : Word := s.memRead s.pc.toNat ++ s.memRead (s.pc.toNat + 1)

/-- Pixel p is hit by a 1-bit of the sprite of n rows at I drawn at (X, Y) (R62). -/
def SpriteHits (s : State) (X Y : Byte) (n p : Nat) : Prop :=
  ∃ r < n, ∃ c < 8, (s.memRead (indexed s r)).getLsbD (7 - c) = true ∧
    (X.toNat + c + 64 * (Y.toNat + r)) % 2048 = p

end Sys2Proof.Claims

open Sys2Proof Sys2Proof.Machine Sys2Proof.Claims

/-! ### Encoding -/

/-- Words written out from R54's patterns decode to the instructions they stand for, the ignored nibble of 5XYs
among them (R53). -/
def Obligations.SpecWordsDecode : Prop :=
  decodeWord 0x00E0#16 = .ok .cls ∧ decodeWord 0x2222#16 = .ok (.call 0x222#12) ∧
  decodeWord 0x5127#16 = .ok (.seReg 1#4 2#4) ∧ decodeWord 0x6A7B#16 = .ok (.ldImm 0xA#4 0x7B#8) ∧
  decodeWord 0x812E#16 = .ok (.shl 1#4 2#4) ∧ decodeWord 0xD015#16 = .ok (.drw 0#4 1#4 5#4) ∧
  decodeWord 0xE4A1#16 = .ok (.sknp 4#4) ∧ decodeWord 0xF265#16 = .ok (.ldVxMem 2#4) ∧
  decodeWord 0x0123#16 = .error .family0

/-- Decoding the word, and the two bytes, of any instruction gives it back, with every operand at every value and
whatever bytes follow. -/
def Obligations.DecodeInvertsEncode : Prop :=
  ∀ i : Instr, decodeWord (encode i) = .ok i ∧
    ∀ rest : List Byte, decode (encodeBytes i ++ rest) = .ok (i, rest)

/-- The other direction: a word that decodes is the word of its instruction, but for the low nibble of the
families 5 and 9, which is not decoded (R53). -/
def Obligations.EncodeInvertsDecode : Prop :=
  ∀ (op : Word) (i : Instr), decodeWord op = .ok i →
    encode i = if opFamily op = 0x5#4 ∨ opFamily op = 0x9#4 then op &&& 0xFFF0#16 else op

/-- R54: the 34 rows are pairwise disjoint, and a word selects a row exactly when it decodes to an instruction
of that row. -/
def Obligations.WordSelectsItsRow : Prop :=
  opcodeTable.length = 34 ∧
  (∀ (op : Word) (r r' : OpcodeRow), r ∈ opcodeTable → r' ∈ opcodeTable →
    op &&& r.mask = r.word → op &&& r'.mask = r'.word → r = r') ∧
  (∀ (op : Word) (r : OpcodeRow), r ∈ opcodeTable →
    (op &&& r.mask = r.word ↔ ∃ i, decodeWord op = .ok i ∧ rowOf i = r)) ∧
  (∀ i : Instr, rowOf i ∈ opcodeTable)

/-- R55: the words that are unknown, in numbers: family 0 but for two words; family 8 by the low nibble; families
E and F by the low byte; no other word. -/
def Obligations.UnknownWords : Prop :=
  ∀ op : Word, (∃ u, decodeWord op = .error u) ↔
    (op.toNat / 4096 = 0x0 ∧ op.toNat ≠ 0x00E0 ∧ op.toNat ≠ 0x00EE) ∨
    (op.toNat / 4096 = 0x8 ∧ op.toNat % 16 ∈ [0x8, 0x9, 0xA, 0xB, 0xC, 0xD, 0xF]) ∨
    (op.toNat / 4096 = 0xE ∧ op.toNat % 256 ∉ [0x9E, 0xA1]) ∨
    (op.toNat / 4096 = 0xF ∧
      op.toNat % 256 ∉ [0x07, 0x0A, 0x15, 0x18, 0x1E, 0x29, 0x33, 0x55, 0x65])

/-! ### The step -/

/-- R57: when the unit served is `step`, a running core performs the instruction that the two bytes at pc decode
to, in the state with `wait_key` cleared. -/
def Obligations.StepRunsDecodedInstruction : Prop :=
  ∀ (s : State) (i : Instr), nextUnit s = .step → s.fault.cause = .noFault →
    decode [s.memRead s.pc.toNat, s.memRead (s.pc.toNat + 1)] = .ok (i, []) →
    step s = exec i (started s)

/-- R56: an unknown opcode emits Diag with its pc and its bits and advances pc by 2; nothing else changes but what
every step does. -/
def Obligations.UnknownOpcodeIsPassedOver : Prop :=
  ∀ (s : State) (u : Unknown), nextUnit s = .step → s.fault.cause = .noFault →
    decodeWord (opAtPc s) = .error u →
    ∃ t, step s = .next t ∧ t.events = s.events ++ [.diag s.pc (opAtPc s)] ∧ t.pc = s.pc + 2#16 ∧
      RegsKept s t ∧ MemoryKept s t ∧ IndexKept s t ∧ StackKept s t ∧ TimersKept s t ∧ DisplayKept s t ∧
      t.fault = s.fault ∧ t.waitKey = false ∧ t.key = s.key ∧ t.draws = s.draws ∧
      t.schedule = (taken s).schedule ∧ t.stream = (taken s).stream ∧ t.font = s.font

/-- R59: a halted core serves any number of steps, whatever is requested after them, and nothing changes but the
requests, nothing is emitted. -/
def Obligations.HaltedStepsChangeNothing : Prop :=
  ∀ (s : State) (n : Nat), s.fault.cause ≠ .noFault → (∀ j < n, unitAt s j = .step) →
    Host.Core.run core n s = .next (taken^[n] s)

/-- The word placed by `withFetchWord` (the model's own operation, log entry 13) is the instruction the very next
step runs, whatever the state. -/
def Obligations.PlacedWordRunsNext : Prop :=
  ∀ (s : State) (i : Instr),
    step (s.withFetchWord 16 (encode i).toNat) = exec i (started (s.withFetchWord 16 (encode i).toNat)) ∧
    decodeTableWord 16 (encode i).toNat = some i

/-- R47: the bytes FX55 stores are what the next fetch reads where pc then points. -/
def Obligations.StoredBytesAreFetchedNext : Prop :=
  ∀ (s : State) (x : Nibble) (k : Nat), k + 1 ≤ x.toNat →
    (s.pc + 2#16).toNat % 4096 = (s.i.toNat + k) % 4096 →
    ∃ t, exec (.ldMemVx x) s = .next t ∧
      opAtPc t = s.reg (BitVec.ofNat 4 k) ++ s.reg (BitVec.ofNat 4 (k + 1))

/-! ### Memory -/

/-- R39: a write sets the one byte its address names modulo 4096, no other byte and nothing else. -/
def Obligations.MemoryReadAfterWrite : Prop :=
  ∀ (s : State) (a b : Nat) (x : Byte),
    ((s.memStore a [x]).memRead b = if b % 4096 = a % 4096 then x else s.memRead b) ∧
    s.memStore a [x] = { s with mem := (s.memStore a [x]).mem }

/-- Equal memories are equal data, whatever `FONT` is: two canonical memories that read the same at every address are the same list. -/
def Obligations.CanonicalMemoryIsUnique : Prop :=
  ∀ (font : Font) (m m' : Memory), Memory.wf font m = true → Memory.wf font m' = true →
    (∀ a < 4096, Memory.read font m a = Memory.read font m' a) → m = m'

/-! ### Display -/

/-- R63. -/
def Obligations.ClsClearsEveryPixel : Prop :=
  DecodesAs 0xFFFF#16 0x00E0#16 (fun _ => .cls) ∧
  ∀ s : State, ∃ t, exec .cls s = .next t ∧ (∀ p < 2048, t.pixel p = false) ∧ t.drawFlag = true ∧
    t.pc = s.pc + 2#16 ∧ RegsKept s t ∧ MemoryKept s t ∧ IndexKept s t ∧ CoreKept s t ∧ DrawsKept s t

/-- R62, R64: a pixel is toggled exactly when a 1-bit of the sprite hits it; VF tells whether one of those was
set before; the draw flag is set; nothing else changes. -/
def Obligations.DrwXorsSpriteAndFlagsCollision : Prop :=
  DecodesAs 0xF000#16 0xD000#16 (fun op => .drw (opX op) (opY op) (opN op)) ∧
  ∀ (x y n : Nibble) (s : State), ∃ t, exec (.drw x y n) s = .next t ∧
    (∀ p < 2048, SpriteHits s (s.reg x) (s.reg y) n.toNat p → t.pixel p = !s.pixel p) ∧
    (∀ p < 2048, ¬ SpriteHits s (s.reg x) (s.reg y) n.toNat p → t.pixel p = s.pixel p) ∧
    ((∃ p < 2048, SpriteHits s (s.reg x) (s.reg y) n.toNat p ∧ s.pixel p = true) → t.reg 0xF#4 = 1#8) ∧
    ((¬ ∃ p < 2048, SpriteHits s (s.reg x) (s.reg y) n.toNat p ∧ s.pixel p = true) → t.reg 0xF#4 = 0#8) ∧
    (∀ r, r ≠ 0xF#4 → t.reg r = s.reg r) ∧ t.drawFlag = true ∧ t.pc = s.pc + 2#16 ∧
    MemoryKept s t ∧ IndexKept s t ∧ CoreKept s t ∧ DrawsKept s t

/-- Drawing a sprite twice restores the framebuffer. The second draw's VF is 1 exactly when one of the pixels the
sprite hits was clear before the first; from a blank framebuffer that is when the sprite has a 1-bit, as
the source says. (R64's corner case and 95_test_vectors.md say so of every framebuffer, which their own
pseudocode contradicts where every hit pixel was set; log entry 15. The coordinates are not VF, which the
first draw writes.) -/
def Obligations.DrawingTwiceRestoresTheScreen : Prop :=
  ∀ (x y n : Nibble) (s : State), x ≠ 0xF#4 → y ≠ 0xF#4 →
    ∃ t u, exec (.drw x y n) s = .next t ∧ exec (.drw x y n) t = .next u ∧
      (∀ p < 2048, u.pixel p = s.pixel p) ∧
      (u.reg 0xF#4 = 1#8 ↔ ∃ p < 2048, SpriteHits s (s.reg x) (s.reg y) n.toNat p ∧ s.pixel p = false) ∧
      ((∀ p < 2048, s.pixel p = false) →
        t.reg 0xF#4 = 0#8 ∧ (u.reg 0xF#4 = 1#8 ↔ ∃ r < n.toNat, s.memRead (indexed s r) ≠ 0#8))

/-! ### Control transfer and skips -/

/-- R65: with an entry on the stack, pc is the entry plus 2 and sp goes down; the entry stays. -/
def Obligations.RetReturnsAfterTheCall : Prop :=
  DecodesAs 0xFFFF#16 0x00EE#16 (fun _ => .ret) ∧
  (∀ (s : State) (n : Fin 16), s.sp.val = n.val + 1 →
    ∃ t, exec .ret s = .next t ∧ t.pc = s.stack[n] + 2#16 ∧ t.sp.val = n.val ∧ t.stack = s.stack ∧
      RegsKept s t ∧ MemoryKept s t ∧ IndexKept s t ∧ DisplayKept s t ∧ TimersKept s t ∧ StatusKept s t ∧
      HostKept s t ∧ DrawsKept s t) ∧
  (∀ s : State, s.sp.val = 0 →
    exec .ret s = .next { s with fault := ⟨.stackUnderflow, s.pc, 0x00EE#16⟩ })

/-- R66. -/
def Obligations.JpJumps : Prop :=
  DecodesAs 0xF000#16 0x1000#16 (fun op => .jp (opNNN op)) ∧
  ∀ (nnn : Addr12) (s : State), ∃ t, exec (.jp nnn) s = .next t ∧ t.pc.toNat = nnn.toNat ∧ OnlyPc s t

/-- R67: below 16 entries the call's own pc is pushed; at 16 the call faults. -/
def Obligations.CallPushesItsOwnAddress : Prop :=
  DecodesAs 0xF000#16 0x2000#16 (fun op => .call (opNNN op)) ∧
  (∀ (nnn : Addr12) (s : State) (n : Fin 16), s.sp.val = n.val →
    ∃ t, exec (.call nnn) s = .next t ∧ t.pc.toNat = nnn.toNat ∧ t.sp.val = n.val + 1 ∧
      (∀ j : Fin 16, t.stack[j] = if j = n then s.pc else s.stack[j]) ∧
      RegsKept s t ∧ MemoryKept s t ∧ IndexKept s t ∧ DisplayKept s t ∧ TimersKept s t ∧ StatusKept s t ∧
      HostKept s t ∧ DrawsKept s t) ∧
  (∀ (nnn : Addr12) (s : State) (op : Word), decodeWord op = .ok (.call nnn) → s.sp.val = 16 →
    exec (.call nnn) s = .next { s with fault := ⟨.stackOverflow, s.pc, op⟩ })

/-- R68, R69. -/
def Obligations.SkipsOnImmediate : Prop :=
  DecodesAs 0xF000#16 0x3000#16 (fun op => .seImm (opX op) (opNN op)) ∧
  DecodesAs 0xF000#16 0x4000#16 (fun op => .sneImm (opX op) (opNN op)) ∧
  (∀ (x : Nibble) (nn : Byte) (s : State), ∃ t, exec (.seImm x nn) s = .next t ∧
    t.pc = (if s.reg x = nn then s.pc + 4#16 else s.pc + 2#16) ∧ OnlyPc s t) ∧
  (∀ (x : Nibble) (nn : Byte) (s : State), ∃ t, exec (.sneImm x nn) s = .next t ∧
    t.pc = (if s.reg x ≠ nn then s.pc + 4#16 else s.pc + 2#16) ∧ OnlyPc s t)

/-- R70, R71: the low nibble of the word is not decoded. -/
def Obligations.SkipsOnRegisters : Prop :=
  DecodesAs 0xF000#16 0x5000#16 (fun op => .seReg (opX op) (opY op)) ∧
  DecodesAs 0xF000#16 0x9000#16 (fun op => .sneReg (opX op) (opY op)) ∧
  (∀ (x y : Nibble) (s : State), ∃ t, exec (.seReg x y) s = .next t ∧
    t.pc = (if s.reg x = s.reg y then s.pc + 4#16 else s.pc + 2#16) ∧ OnlyPc s t) ∧
  (∀ (x y : Nibble) (s : State), ∃ t, exec (.sneReg x y) s = .next t ∧
    t.pc = (if s.reg x ≠ s.reg y then s.pc + 4#16 else s.pc + 2#16) ∧ OnlyPc s t)

/-- R72: the register is always V0, and the target may exceed 0xFFF. -/
def Obligations.JpV0JumpsRelativeToV0 : Prop :=
  DecodesAs 0xF000#16 0xB000#16 (fun op => .jpV0 (opNNN op)) ∧
  ∀ (nnn : Addr12) (s : State), ∃ t, exec (.jpV0 nnn) s = .next t ∧
    t.pc.toNat = (s.reg 0x0#4).toNat + nnn.toNat ∧ OnlyPc s t

/-! ### Loads and the ALU -/

/-- R74, R76. -/
def Obligations.LoadsSetTheirRegister : Prop :=
  DecodesAs 0xF000#16 0x6000#16 (fun op => .ldImm (opX op) (opNN op)) ∧
  DecodesAs 0xF00F#16 0x8000#16 (fun op => .ldReg (opX op) (opY op)) ∧
  (∀ (x : Nibble) (nn : Byte) (s : State), ∃ t, exec (.ldImm x nn) s = .next t ∧
    (∀ r, t.reg r = if r = x then nn else s.reg r) ∧ t.pc = s.pc + 2#16 ∧ OnlyRegsAndPc s t) ∧
  (∀ (x y : Nibble) (s : State), ∃ t, exec (.ldReg x y) s = .next t ∧
    (∀ r, t.reg r = if r = x then s.reg y else s.reg r) ∧ t.pc = s.pc + 2#16 ∧ OnlyRegsAndPc s t)

/-- R75: the sum wraps modulo 256 and VF changes only as the destination. -/
def Obligations.AddImmWrapsWithoutFlag : Prop :=
  DecodesAs 0xF000#16 0x7000#16 (fun op => .addImm (opX op) (opNN op)) ∧
  ∀ (x : Nibble) (nn : Byte) (s : State), ∃ t, exec (.addImm x nn) s = .next t ∧
    (∀ r, r ≠ x → t.reg r = s.reg r) ∧ (t.reg x).toNat = ((s.reg x).toNat + nn.toNat) % 256 ∧
    t.pc = s.pc + 2#16 ∧ OnlyRegsAndPc s t

/-- R77, R78, R79: bit by bit, and VF changes only as the destination. -/
def Obligations.LogicIsBitwiseWithoutFlag : Prop :=
  DecodesAs 0xF00F#16 0x8001#16 (fun op => .orReg (opX op) (opY op)) ∧
  DecodesAs 0xF00F#16 0x8002#16 (fun op => .andReg (opX op) (opY op)) ∧
  DecodesAs 0xF00F#16 0x8003#16 (fun op => .xorReg (opX op) (opY op)) ∧
  ∀ (x y : Nibble) (s : State),
    (∃ t, exec (.orReg x y) s = .next t ∧
      (∀ b < 8, (t.reg x).getLsbD b = ((s.reg x).getLsbD b || (s.reg y).getLsbD b)) ∧
      (∀ r, r ≠ x → t.reg r = s.reg r) ∧ t.pc = s.pc + 2#16 ∧ OnlyRegsAndPc s t) ∧
    (∃ t, exec (.andReg x y) s = .next t ∧
      (∀ b < 8, (t.reg x).getLsbD b = ((s.reg x).getLsbD b && (s.reg y).getLsbD b)) ∧
      (∀ r, r ≠ x → t.reg r = s.reg r) ∧ t.pc = s.pc + 2#16 ∧ OnlyRegsAndPc s t) ∧
    (∃ t, exec (.xorReg x y) s = .next t ∧
      (∀ b < 8, (t.reg x).getLsbD b = ((s.reg x).getLsbD b != (s.reg y).getLsbD b)) ∧
      (∀ r, r ≠ x → t.reg r = s.reg r) ∧ t.pc = s.pc + 2#16 ∧ OnlyRegsAndPc s t)

/-- R80, with every aliasing of R87: the flag is written last. -/
def Obligations.AddRegSetsCarry : Prop :=
  DecodesAs 0xF00F#16 0x8004#16 (fun op => .addReg (opX op) (opY op)) ∧
  ∀ (x y : Nibble) (s : State), ∃ t, exec (.addReg x y) s = .next t ∧
    t.reg 0xF#4 = (if (s.reg x).toNat + (s.reg y).toNat > 255 then 1#8 else 0#8) ∧
    (x ≠ 0xF#4 → (t.reg x).toNat = ((s.reg x).toNat + (s.reg y).toNat) % 256) ∧
    (∀ r, r ≠ 0xF#4 → r ≠ x → t.reg r = s.reg r) ∧ t.pc = s.pc + 2#16 ∧ OnlyRegsAndPc s t

/-- R81, R83, with every aliasing of R87: the flag is strict and written last. -/
def Obligations.SubtractionsSetNotBorrow : Prop :=
  DecodesAs 0xF00F#16 0x8005#16 (fun op => .sub (opX op) (opY op)) ∧
  DecodesAs 0xF00F#16 0x8007#16 (fun op => .subn (opX op) (opY op)) ∧
  (∀ (x y : Nibble) (s : State), ∃ t, exec (.sub x y) s = .next t ∧
    t.reg 0xF#4 = (if (s.reg x).toNat > (s.reg y).toNat then 1#8 else 0#8) ∧
    (x ≠ 0xF#4 → ((t.reg x).toNat : Int) = ((s.reg x).toNat - (s.reg y).toNat : Int) % 256) ∧
    (∀ r, r ≠ 0xF#4 → r ≠ x → t.reg r = s.reg r) ∧ t.pc = s.pc + 2#16 ∧ OnlyRegsAndPc s t) ∧
  (∀ (x y : Nibble) (s : State), ∃ t, exec (.subn x y) s = .next t ∧
    t.reg 0xF#4 = (if (s.reg y).toNat > (s.reg x).toNat then 1#8 else 0#8) ∧
    (x ≠ 0xF#4 → ((t.reg x).toNat : Int) = ((s.reg y).toNat - (s.reg x).toNat : Int) % 256) ∧
    (∀ r, r ≠ 0xF#4 → r ≠ x → t.reg r = s.reg r) ∧ t.pc = s.pc + 2#16 ∧ OnlyRegsAndPc s t)

/-- R82, R84, with every aliasing of R87: the old Vy goes, shifted, into both registers; VF is the bit shifted
out. -/
def Obligations.ShiftsWriteBothRegisters : Prop :=
  DecodesAs 0xF00F#16 0x8006#16 (fun op => .shr (opX op) (opY op)) ∧
  DecodesAs 0xF00F#16 0x800E#16 (fun op => .shl (opX op) (opY op)) ∧
  (∀ (x y : Nibble) (s : State), ∃ t, exec (.shr x y) s = .next t ∧
    (t.reg 0xF#4).toNat = (s.reg y).toNat % 2 ∧
    (∀ r, r ≠ 0xF#4 → (r = x ∨ r = y) → (t.reg r).toNat = (s.reg y).toNat / 2) ∧
    (∀ r, r ≠ 0xF#4 → r ≠ x → r ≠ y → t.reg r = s.reg r) ∧ t.pc = s.pc + 2#16 ∧ OnlyRegsAndPc s t) ∧
  (∀ (x y : Nibble) (s : State), ∃ t, exec (.shl x y) s = .next t ∧
    (t.reg 0xF#4).toNat = (s.reg y).toNat / 128 ∧
    (∀ r, r ≠ 0xF#4 → (r = x ∨ r = y) → (t.reg r).toNat = 2 * (s.reg y).toNat % 256) ∧
    (∀ r, r ≠ 0xF#4 → r ≠ x → r ≠ y → t.reg r = s.reg r) ∧ t.pc = s.pc + 2#16 ∧ OnlyRegsAndPc s t)

/-- R85: the register is the step's random byte, whatever it is, masked. That the byte is `Config.rnd` at the draw
counter, and that the counter goes up by one, is the model's choice (log entry 2), as is the counter itself. -/
def Obligations.RndMasksTheRandomByte : Prop :=
  DecodesAs 0xF000#16 0xC000#16 (fun op => .rnd (opX op) (opNN op)) ∧
  ∀ (x : Nibble) (nn : Byte) (s : State), ∃ t, exec (.rnd x nn) s = .next t ∧
    (∀ r, t.reg r = if r = x then Config.rnd s.draws &&& nn else s.reg r) ∧ t.pc = s.pc + 2#16 ∧
    t.draws = s.draws + 1 ∧ MemoryKept s t ∧ IndexKept s t ∧ DisplayKept s t ∧ CoreKept s t

/-- R15: after an instruction that defines a flag VF is 0 or 1. -/
def Obligations.FlagInstructionsLeaveVfZeroOrOne : Prop :=
  ∀ (i : Instr) (s t : State),
    (∃ x y n, i = .addReg x y ∨ i = .sub x y ∨ i = .shr x y ∨ i = .subn x y ∨ i = .shl x y ∨
      i = .drw x y n ∨ i = .addI x) →
    exec i s = .next t → t.reg 0xF#4 = 0#8 ∨ t.reg 0xF#4 = 1#8

/-- The property of 95_test_vectors.md: outside the flag instructions and those that name VF as a destination, VF
never changes. -/
def Obligations.OtherInstructionsKeepVf : Prop :=
  ∀ (i : Instr) (s t : State), exec i s = .next t →
    (∀ x y n, i ≠ .addReg x y ∧ i ≠ .sub x y ∧ i ≠ .shr x y ∧ i ≠ .subn x y ∧ i ≠ .shl x y ∧
      i ≠ .drw x y n ∧ i ≠ .addI x) →
    (∀ y nn, i ≠ .ldImm 0xF#4 nn ∧ i ≠ .addImm 0xF#4 nn ∧ i ≠ .rnd 0xF#4 nn ∧ i ≠ .ldReg 0xF#4 y ∧
      i ≠ .orReg 0xF#4 y ∧ i ≠ .andReg 0xF#4 y ∧ i ≠ .xorReg 0xF#4 y) →
    i ≠ .ldVxDt 0xF#4 → i ≠ .ldVxK 0xF#4 → i ≠ .ldVxMem 0xF#4 →
    t.reg 0xF#4 = s.reg 0xF#4

/-! ### Index and memory -/

/-- R88, R90: I is the address field, or five times the whole byte of Vx. -/
def Obligations.IndexLoads : Prop :=
  DecodesAs 0xF000#16 0xA000#16 (fun op => .ldI (opNNN op)) ∧
  DecodesAs 0xF0FF#16 0xF029#16 (fun op => .ldF (opX op)) ∧
  (∀ (nnn : Addr12) (s : State), ∃ t, exec (.ldI nnn) s = .next t ∧ t.i.toNat = nnn.toNat ∧
    t.pc = s.pc + 2#16 ∧ RegsKept s t ∧ MemoryKept s t ∧ DisplayKept s t ∧ CoreKept s t ∧ DrawsKept s t) ∧
  (∀ (x : Nibble) (s : State), ∃ t, exec (.ldF x) s = .next t ∧ t.i.toNat = (s.reg x).toNat * 5 ∧
    t.pc = s.pc + 2#16 ∧ RegsKept s t ∧ MemoryKept s t ∧ DisplayKept s t ∧ CoreKept s t ∧ DrawsKept s t)

/-- R89: I wraps modulo 2^16, unmasked; VF tells whether the exact sum exceeds 0x0FFF, in both directions. -/
def Obligations.AddIFlagsTheRange : Prop :=
  DecodesAs 0xF0FF#16 0xF01E#16 (fun op => .addI (opX op)) ∧
  ∀ (x : Nibble) (s : State), ∃ t, exec (.addI x) s = .next t ∧
    t.i.toNat = (s.i.toNat + (s.reg x).toNat) % 65536 ∧
    t.reg 0xF#4 = (if s.i.toNat + (s.reg x).toNat > 0x0FFF then 1#8 else 0#8) ∧
    (∀ r, r ≠ 0xF#4 → t.reg r = s.reg r) ∧ t.pc = s.pc + 2#16 ∧
    MemoryKept s t ∧ DisplayKept s t ∧ CoreKept s t ∧ DrawsKept s t

/-- R91: hundreds, tens and ones go to I, I + 1, I + 2, modulo 4096; every other byte reads as before. -/
def Obligations.LdBStoresThreeDigits : Prop :=
  DecodesAs 0xF0FF#16 0xF033#16 (fun op => .ldB (opX op)) ∧
  ∀ (x : Nibble) (s : State), ∃ t, exec (.ldB x) s = .next t ∧
    (t.memRead (indexed s 0)).toNat = (s.reg x).toNat / 100 ∧
    (t.memRead (indexed s 1)).toNat = (s.reg x).toNat / 10 % 10 ∧
    (t.memRead (indexed s 2)).toNat = (s.reg x).toNat % 10 ∧
    (∀ a, (∀ k < 3, a % 4096 ≠ indexed s k % 4096) → t.memRead a = s.memRead a) ∧
    t.pc = s.pc + 2#16 ∧ RegsKept s t ∧ IndexKept s t ∧ DisplayKept s t ∧ CoreKept s t ∧ DrawsKept s t

/-- R92: V0 to Vx go to I, ..., I + x, modulo 4096; every other byte reads as before; I advances by x + 1. -/
def Obligations.LdMemStoresRegisters : Prop :=
  DecodesAs 0xF0FF#16 0xF055#16 (fun op => .ldMemVx (opX op)) ∧
  ∀ (x : Nibble) (s : State), ∃ t, exec (.ldMemVx x) s = .next t ∧
    (∀ k : Nibble, k.toNat ≤ x.toNat → t.memRead (indexed s k.toNat) = s.reg k) ∧
    (∀ a, (∀ k ≤ x.toNat, a % 4096 ≠ indexed s k % 4096) → t.memRead a = s.memRead a) ∧
    t.i.toNat = (s.i.toNat + x.toNat + 1) % 65536 ∧ t.pc = s.pc + 2#16 ∧
    RegsKept s t ∧ DisplayKept s t ∧ CoreKept s t ∧ DrawsKept s t

/-- R93: V0 to Vx come from I, ..., I + x, modulo 4096; the registers above x stay; I advances by x + 1. -/
def Obligations.LdVxMemLoadsRegisters : Prop :=
  DecodesAs 0xF0FF#16 0xF065#16 (fun op => .ldVxMem (opX op)) ∧
  ∀ (x : Nibble) (s : State), ∃ t, exec (.ldVxMem x) s = .next t ∧
    (∀ r : Nibble, t.reg r = if r.toNat ≤ x.toNat then s.memRead (indexed s r.toNat) else s.reg r) ∧
    t.i.toNat = (s.i.toNat + x.toNat + 1) % 65536 ∧ t.pc = s.pc + 2#16 ∧
    MemoryKept s t ∧ DisplayKept s t ∧ CoreKept s t ∧ DrawsKept s t

/-- The source's round trip: FX55, then FX65 with the same x and I and no store between, gives V0 to Vx back. -/
def Obligations.StoreThenLoadRoundTrips : Prop :=
  ∀ (x : Nibble) (s : State), ∃ t, exec (.ldMemVx x) s = .next t ∧
    ∀ u : State, u.i = s.i → MemoryKept t u →
      ∃ w, exec (.ldVxMem x) u = .next w ∧ w.i = t.i ∧
        ∀ r : Nibble, r.toNat ≤ x.toNat → w.reg r = s.reg r

/-! ### Keys and timers -/

/-- R95, R96: a key number up to 15 decides the skip; a larger one is a KeyFault and nothing else is written. -/
def Obligations.KeySkips : Prop :=
  DecodesAs 0xF0FF#16 0xE09E#16 (fun op => .skp (opX op)) ∧
  DecodesAs 0xF0FF#16 0xE0A1#16 (fun op => .sknp (opX op)) ∧
  (∀ (x : Nibble) (s : State), (s.reg x).toNat ≤ 15 →
    (∃ t, exec (.skp x) s = .next t ∧
      t.pc = (if s.key.getLsbD (s.reg x).toNat = true then s.pc + 4#16 else s.pc + 2#16) ∧ OnlyPc s t) ∧
    (∃ t, exec (.sknp x) s = .next t ∧
      t.pc = (if s.key.getLsbD (s.reg x).toNat = false then s.pc + 4#16 else s.pc + 2#16) ∧ OnlyPc s t)) ∧
  (∀ (x : Nibble) (s : State) (op : Word), 15 < (s.reg x).toNat →
    (decodeWord op = .ok (.skp x) → exec (.skp x) s = .next { s with fault := ⟨.keyFault, s.pc, op⟩ }) ∧
    (decodeWord op = .ok (.sknp x) → exec (.sknp x) s = .next { s with fault := ⟨.keyFault, s.pc, op⟩ }))

/-- R98: with no key down only `wait_key` changes; else Vx is the number of a key that is down, whichever of
several, and pc advances. That a wait which ends adds one to the draw counter is the model's choice (log
entry 3). -/
def Obligations.LdVxKWaitsForAKey : Prop :=
  DecodesAs 0xF0FF#16 0xF00A#16 (fun op => .ldVxK (opX op)) ∧
  (∀ (x : Nibble) (s : State), (∀ k < 16, s.key.getLsbD k = false) →
    exec (.ldVxK x) s = .next { s with waitKey := true }) ∧
  (∀ (x : Nibble) (s : State), (∃ k < 16, s.key.getLsbD k = true) →
    ∃ t, exec (.ldVxK x) s = .next t ∧
      (t.reg x).toNat < 16 ∧ s.key.getLsbD (t.reg x).toNat = true ∧ (∀ r, r ≠ x → t.reg r = s.reg r) ∧
      t.pc = s.pc + 2#16 ∧ t.draws = s.draws + 1 ∧
      MemoryKept s t ∧ IndexKept s t ∧ DisplayKept s t ∧ CoreKept s t)

/-- R97, R99, R100: FX07 reads DT; FX15 and FX18 write DT and ST and emit nothing. -/
def Obligations.TimerRegisterTransfers : Prop :=
  DecodesAs 0xF0FF#16 0xF007#16 (fun op => .ldVxDt (opX op)) ∧
  DecodesAs 0xF0FF#16 0xF015#16 (fun op => .ldDtVx (opX op)) ∧
  DecodesAs 0xF0FF#16 0xF018#16 (fun op => .ldStVx (opX op)) ∧
  ∀ (x : Nibble) (s : State),
    (∃ t, exec (.ldVxDt x) s = .next t ∧ (∀ r, t.reg r = if r = x then s.dt else s.reg r) ∧
      t.pc = s.pc + 2#16 ∧ OnlyRegsAndPc s t) ∧
    (∃ t, exec (.ldDtVx x) s = .next t ∧ t.dt = s.reg x ∧ t.st = s.st ∧ t.pc = s.pc + 2#16 ∧
      RegsKept s t ∧ MemoryKept s t ∧ IndexKept s t ∧ DisplayKept s t ∧ StackKept s t ∧ StatusKept s t ∧
      HostKept s t ∧ DrawsKept s t) ∧
    (∃ t, exec (.ldStVx x) s = .next t ∧ t.st = s.reg x ∧ t.dt = s.dt ∧ t.pc = s.pc + 2#16 ∧
      RegsKept s t ∧ MemoryKept s t ∧ IndexKept s t ∧ DisplayKept s t ∧ StackKept s t ∧ StatusKept s t ∧
      HostKept s t ∧ DrawsKept s t)

/-! ### Faults -/

/-- R102: an instruction of a running core halts it exactly under the four conditions, with these causes, and the
pc and an opcode of the instruction are recorded. -/
def Obligations.OnlyTheseConditionsFault : Prop :=
  ∀ (i : Instr) (s t : State), s.fault.cause = .noFault → exec i s = .next t →
    (t.fault.cause = .stackOverflow ↔ (∃ nnn, i = .call nnn) ∧ s.sp.val = 16) ∧
    (t.fault.cause = .stackUnderflow ↔ i = .ret ∧ s.sp.val = 0) ∧
    (t.fault.cause = .keyFault ↔ ∃ x, (i = .skp x ∨ i = .sknp x) ∧ (s.reg x).toNat > 15) ∧
    (t.fault.cause ≠ .noFault → t.fault.pc = s.pc ∧ decodeWord t.fault.op = .ok i)

/-- R106, R57: a step in which the core halts records the pc and the opcode of the faulting instruction and writes
nothing else but what every step of a running core does before the instruction: the unit is taken,
`wait_key` is cleared (R57; that it is so in a faulting step is DEDUCED, log entry 11) and the load window is
closed (the model's choice, log entry 6). The next step changes nothing but the requests. -/
def Obligations.FaultIsPrecise : Prop :=
  ∀ s t : State, nextUnit s = .step → s.fault.cause = .noFault → step s = .next t →
    t.fault.cause ≠ .noFault →
    t = { started s with fault := ⟨t.fault.cause, s.pc, opAtPc s⟩ } ∧
      (nextUnit t = .step → step t = .next (taken t))

/-- R108: no unit but `initialize()` changes the fault record of a halted core, and `initialize()` clears it. -/
def Obligations.OnlyResetClearsAFault : Prop :=
  (∀ s t : State, s.fault.cause ≠ .noFault → step s = .next t → t.fault ≠ s.fault → nextUnit s = .initCore) ∧
  (∀ s : State, nextUnit s = .initCore → ∃ t, step s = .next t ∧ t.fault = ⟨.noFault, 0#16, 0#16⟩)

/-- R13: each element is written only by the instructions its row names. -/
def Obligations.OnlyTheNamedInstructionsWrite : Prop :=
  ∀ (i : Instr) (s t : State), exec i s = .next t →
    ((¬ ∃ x, i = .ldB x ∨ i = .ldMemVx x) → t.mem = s.mem) ∧
    ((¬ ∃ x nnn, i = .ldI nnn ∨ i = .addI x ∨ i = .ldF x ∨ i = .ldMemVx x ∨ i = .ldVxMem x) → t.i = s.i) ∧
    ((¬ ∃ nnn, i = .call nnn) → t.stack = s.stack) ∧
    ((¬ ∃ nnn, i = .call nnn ∨ i = .ret) → t.sp = s.sp) ∧
    ((¬ ∃ x, i = .ldDtVx x) → t.dt = s.dt) ∧ ((¬ ∃ x, i = .ldStVx x) → t.st = s.st) ∧
    ((¬ ∃ x y n, i = .cls ∨ i = .drw x y n) → t.fb = s.fb ∧ t.drawFlag = s.drawFlag) ∧
    t.key = s.key

/-- The property of 95_test_vectors.md (R17): an instruction that does not fault, is no jump, call, return or skip
and does not wait sets pc to pc + 2 modulo 2^16. -/
def Obligations.SequentialInstructionsAddTwo : Prop :=
  ∀ (i : Instr) (s t : State), exec i s = .next t →
    (∀ nnn, i ≠ .jp nnn ∧ i ≠ .call nnn ∧ i ≠ .jpV0 nnn ∧ i ≠ .ret) →
    (∀ x y nn, i ≠ .seImm x nn ∧ i ≠ .sneImm x nn ∧ i ≠ .seReg x y ∧ i ≠ .sneReg x y ∧ i ≠ .skp x ∧
      i ≠ .sknp x) →
    (∀ x, i = .ldVxK x → ∃ k < 16, s.key.getLsbD k = true) →
    t.pc.toNat = (s.pc.toNat + 2) % 65536

/-! ### The units of the host -/

/-- R110: both timers go down by one, not below 0; Sound is emitted when ST was 1; nothing else changes, halted or
not. -/
def Obligations.TickTimerCountsDown : Prop :=
  ∀ s : State, nextUnit s = .tickTimer →
    ∃ t, step s = .next t ∧ t.dt.toNat = s.dt.toNat - 1 ∧ t.st.toNat = s.st.toNat - 1 ∧
      t.events = (if s.st = 1#8 then s.events ++ [.sound] else s.events) ∧
      t = { taken s with dt := t.dt, st := t.st, events := t.events }

/-- R111: over every step of every kind, Sound is emitted exactly on the ticks that take ST from 1 to 0. -/
def Obligations.SoundExactlyOnTheTickToZero : Prop :=
  ∀ s t : State, step s = .next t →
    t.events.count .sound = s.events.count .sound + if nextUnit s = .tickTimer ∧ s.st = 1#8 then 1 else 0

/-- R58: a step of the core moves a timer only by FX15 and FX18, and then to the value of Vx. -/
def Obligations.StepNeverTicksTheTimers : Prop :=
  ∀ s t : State, nextUnit s = .step → step s = .next t →
    (t.dt = s.dt ∨ ∃ x, decodeWord (opAtPc s) = .ok (.ldDtVx x) ∧ t.dt = s.reg x) ∧
    (t.st = s.st ∨ ∃ x, decodeWord (opAtPc s) = .ok (.ldStVx x) ∧ t.st = s.reg x)

/-- R34: `setKeys` writes every key and `clearDraw` the draw flag, and neither writes anything else. -/
def Obligations.HostWritesOnlyKeysAndDrawFlag : Prop :=
  (∀ (s : State) (k : Keys), nextUnit s = .setKeys k → step s = .next { taken s with key := k }) ∧
  (∀ s : State, nextUnit s = .clearDraw → step s = .next { taken s with drawFlag := false })

/-- R23, R24: only the host (and `initialize`) changes a key or takes the draw flag down. -/
def Obligations.KeysAndDrawFlagAreTheHosts : Prop :=
  ∀ s t : State, step s = .next t →
    (t.key ≠ s.key → nextUnit s = .initCore ∨ ∃ k, nextUnit s = .setKeys k) ∧
    (s.drawFlag = true → t.drawFlag = false → nextUnit s = .initCore ∨ nextUnit s = .clearDraw)

/-- R29, R120: the values `initialize()` leaves, from any state, for any `FONT`; no event is emitted. -/
def Obligations.InitializeLeavesResetValues : Prop :=
  ∀ s : State, nextUnit s = .initCore → ∃ t, step s = .next t ∧ t.events = s.events ∧ t.font = s.font ∧
    (∀ a : Fin 80, t.memRead a = s.font[a]) ∧ (∀ a, 0x050 ≤ a → a < 0x1000 → t.memRead a = 0#8) ∧
    (∀ r, t.reg r = 0#8) ∧ t.i = 0#16 ∧ t.pc = 0x0200#16 ∧ (∀ j : Fin 16, t.stack[j] = 0#16) ∧
    t.sp.val = 0 ∧ t.dt = 0#8 ∧ t.st = 0#8 ∧ (∀ p < 2048, t.pixel p = false) ∧
    (∀ k < 16, t.key.getLsbD k = false) ∧ t.drawFlag = false ∧ t.fault = ⟨.noFault, 0#16, 0#16⟩ ∧
    t.waitKey = false

/-- R29: the state after reset. -/
def Obligations.ResetValues : Prop :=
  (∀ a : Fin 80, State.reset.memRead a = State.reset.font[a]) ∧
  (∀ a, 0x050 ≤ a → a < 0x1000 → State.reset.memRead a = 0#8) ∧
  (∀ r, State.reset.reg r = 0#8) ∧ State.reset.i = 0#16 ∧ State.reset.pc = 0x0200#16 ∧
  (∀ j : Fin 16, State.reset.stack[j] = 0#16) ∧ State.reset.sp.val = 0 ∧ State.reset.dt = 0#8 ∧
  State.reset.st = 0#8 ∧ (∀ p < 2048, State.reset.pixel p = false) ∧
  (∀ k < 16, State.reset.key.getLsbD k = false) ∧ State.reset.drawFlag = false ∧
  State.reset.fault = ⟨.noFault, 0#16, 0#16⟩ ∧ State.reset.waitKey = false

/-- R121: in its place in the boot order a ROM of at most 3584 bytes is copied to 0x200 up and nothing else changes
but the load window. That window, in the hypothesis and in the conclusion, is the model's choice: its form of
the boot order (log entry 6). -/
def Obligations.LoadProgramCopiesTheRom : Prop :=
  ∀ (s : State) (rom : List Byte), nextUnit s = .loadProgram rom → s.loadOpen = true → rom.length ≤ 3584 →
    ∃ t, step s = .next t ∧ (∀ k, ∀ h : k < rom.length, t.memRead (0x200 + k) = rom[k]) ∧
      (∀ a < 4096, a < 0x200 ∨ 0x200 + rom.length ≤ a → t.memRead a = s.memRead a) ∧
      t = { taken s with mem := t.mem, loadOpen := false }

/-- R122: an oversized ROM is a load error. The load window, which the hypothesis names, is the model's (log
entry 6), as is ending the run by a fault (log entry 12). -/
def Obligations.OversizedRomIsALoadError : Prop :=
  ∀ (s : State) (rom : List Byte), nextUnit s = .loadProgram rom → s.loadOpen = true → 3584 < rom.length →
    step s = .fault .oversizedRom

/-- R124: once a step has been served by a running core, or a program loaded, a load is refused until the next
`initialize()`. The load window is the model's form of "exactly once" and "before the first step" (log
entry 6). -/
def Obligations.LoadOnlyOnceBeforeTheFirstStep : Prop :=
  (∀ (s : State) (rom : List Byte), nextUnit s = .loadProgram rom → s.loadOpen = false →
    step s = .refused .lateLoad) ∧
  (∀ s t : State, nextUnit s = .step → s.fault.cause = .noFault → step s = .next t → t.loadOpen = false) ∧
  (∀ (s t : State) (rom : List Byte), nextUnit s = .loadProgram rom → step s = .next t → t.loadOpen = false) ∧
  (∀ s t : State, step s = .next t → s.loadOpen = false → t.loadOpen = true → nextUnit s = .initCore)

/-- R125, R126: one step serves one unit, whichever it is, leaves the others for later and emits at most one event;
after k steps the units still requested are those from number k on; and the units requested can be any list
followed by the free sequence, which nothing constrains. No unit changes the parameter `FONT`. The requests
as data are the model's choice (log entry 4). -/
def Obligations.OneUnitAStep : Prop :=
  (∀ s t : State, step s = .next t → t.schedule = (taken s).schedule ∧ t.stream = (taken s).stream ∧
    t.font = s.font ∧ ∃ es, t.events = s.events ++ es ∧ es.length ≤ 1) ∧
  (∀ (s t : State) (k : Nat), Host.Core.run core k s = .next t → ∀ j, unitAt t j = unitAt s (k + j)) ∧
  (∀ (s : State) (us : List HostUnit) (n j : Nat),
    unitAt { s with schedule := us, stream := some n } j = us.getD j (Config.hostUnit (n + (j - us.length))))

/-- R132: a parked core's step leaves it exactly as it is, but for the request served. The hypotheses on `wait_key`
and the load window (log entry 6) hold of every reachable parked state after its first step. -/
def Obligations.ParkedStaysAsItIs : Prop :=
  ∀ (s : State) (nnn : Addr12), nextUnit s = .step → s.fault.cause = .noFault → s.waitKey = false →
    s.loadOpen = false → opAtPc s = 0x1#4 ++ nnn → nnn.toNat = s.pc.toNat → step s = .next (taken s)

/-- R26, R98: a step of a running core that finds an FX0A and no key down changes nothing but `wait_key`; and
`wait_key` is up after exactly those steps. -/
def Obligations.WaitKeyShowsTheWait : Prop :=
  (∀ (s : State) (x : Nibble), nextUnit s = .step → s.fault.cause = .noFault →
    opAtPc s = 0xF#4 ++ x ++ 0x0A#8 → (∀ k < 16, s.key.getLsbD k = false) →
    step s = .next { started s with waitKey := true }) ∧
  (∀ s t : State, nextUnit s = .step → s.fault.cause = .noFault → step s = .next t →
    (t.waitKey = true ↔
      (∃ x : Nibble, opAtPc s = 0xF#4 ++ x ++ 0x0A#8) ∧ ∀ k < 16, s.key.getLsbD k = false))

/-! ### The invariant -/

/-- The invariant holds after reset. -/
def Obligations.ResetMeetsTheInvariant : Prop := Inv State.reset

/-- Every step, of every unit, from every state keeps the invariant: memory canonical, a clear record without a
fault, a halted core showing its faulting instruction, `wait_key` only at an FX0A, nothing but keys touched
before the program is loaded. -/
def Obligations.EveryStepKeepsTheInvariant : Prop :=
  ∀ s t : State, Inv s → step s = .next t → Inv t

/-- R132: "The core never stops by itself". From a state of the invariant whose requests, for ever, keep the boot
order and have ROMs that fit, a step answers a next state with the same two properties. -/
def Obligations.TheCoreNeverStops : Prop :=
  ∀ s : State, Inv s → KeepsProtocol s → ∃ t, step s = .next t ∧ Inv t ∧ KeepsProtocol t
end

