-- ==== Sys2Proof/Laws/Decode.lean ====
section
/-! SUPPORT. The fields of a word written by its layout, and words told apart by a mask (spec 30_encoding.md
R50, R51, R54). -/

namespace Sys2Proof

variable (o x y n : Nibble) (nn : Byte) (nnn : Addr12)

/-! ### The fields of the three layouts -/

theorem toNat_wordNNN : (wordNNN o nnn).toNat = o.toNat * 4096 + nnn.toNat := by
  have := BitVec.toNat_append o nnn
  rw [show (wordNNN o nnn).toNat = (o ++ nnn).toNat from rfl, this, ← Nat.shiftLeft_add_eq_or_of_lt nnn.isLt,
    Nat.shiftLeft_eq]

theorem toNat_wordXNN : (wordXNN o x nn).toNat = o.toNat * 4096 + x.toNat * 256 + nn.toNat := by
  rw [show (wordXNN o x nn).toNat = ((o ++ x) ++ nn).toNat from rfl, BitVec.toNat_append,
    ← Nat.shiftLeft_add_eq_or_of_lt nn.isLt, Nat.shiftLeft_eq, BitVec.toNat_append,
    ← Nat.shiftLeft_add_eq_or_of_lt x.isLt, Nat.shiftLeft_eq]
  omega

theorem toNat_wordXYN :
    (wordXYN o x y n).toNat = o.toNat * 4096 + x.toNat * 256 + y.toNat * 16 + n.toNat := by
  rw [show (wordXYN o x y n).toNat = (((o ++ x) ++ y) ++ n).toNat from rfl, BitVec.toNat_append,
    ← Nat.shiftLeft_add_eq_or_of_lt n.isLt, Nat.shiftLeft_eq, BitVec.toNat_append,
    ← Nat.shiftLeft_add_eq_or_of_lt y.isLt, Nat.shiftLeft_eq, BitVec.toNat_append,
    ← Nat.shiftLeft_add_eq_or_of_lt x.isLt, Nat.shiftLeft_eq]
  omega

theorem toNat_opFamily (op : Word) : (opFamily op).toNat = op.toNat / 4096 := by
  have := op.isLt
  simp only [opFamily, BitVec.extractLsb'_toNat, Nat.shiftRight_eq_div_pow]
  omega

theorem toNat_opX (op : Word) : (opX op).toNat = op.toNat / 256 % 16 := by
  simp [opX, BitVec.extractLsb'_toNat, Nat.shiftRight_eq_div_pow]

theorem toNat_opY (op : Word) : (opY op).toNat = op.toNat / 16 % 16 := by
  simp [opY, BitVec.extractLsb'_toNat, Nat.shiftRight_eq_div_pow]

theorem toNat_opN (op : Word) : (opN op).toNat = op.toNat % 16 := by
  simp [opN, BitVec.extractLsb'_toNat]

theorem toNat_opNN (op : Word) : (opNN op).toNat = op.toNat % 256 := by
  simp [opNN, BitVec.extractLsb'_toNat]

theorem toNat_opNNN (op : Word) : (opNNN op).toNat = op.toNat % 4096 := by
  simp [opNNN, BitVec.extractLsb'_toNat]

@[simp] theorem opFamily_wordNNN : opFamily (wordNNN o nnn) = o :=
  BitVec.eq_of_toNat_eq (by rw [toNat_opFamily, toNat_wordNNN]; have := nnn.isLt; omega)

@[simp] theorem opNNN_wordNNN : opNNN (wordNNN o nnn) = nnn :=
  BitVec.eq_of_toNat_eq (by rw [toNat_opNNN, toNat_wordNNN]; have := nnn.isLt; omega)

@[simp] theorem opFamily_wordXNN : opFamily (wordXNN o x nn) = o :=
  BitVec.eq_of_toNat_eq (by rw [toNat_opFamily, toNat_wordXNN]; have := nn.isLt; have := x.isLt; omega)

@[simp] theorem opX_wordXNN : opX (wordXNN o x nn) = x :=
  BitVec.eq_of_toNat_eq (by rw [toNat_opX, toNat_wordXNN]; have := nn.isLt; have := x.isLt; omega)

@[simp] theorem opNN_wordXNN : opNN (wordXNN o x nn) = nn :=
  BitVec.eq_of_toNat_eq (by rw [toNat_opNN, toNat_wordXNN]; have := nn.isLt; omega)

@[simp] theorem opFamily_wordXYN : opFamily (wordXYN o x y n) = o :=
  BitVec.eq_of_toNat_eq (by
    rw [toNat_opFamily, toNat_wordXYN]; have := x.isLt; have := y.isLt; have := n.isLt; omega)

@[simp] theorem opX_wordXYN : opX (wordXYN o x y n) = x :=
  BitVec.eq_of_toNat_eq (by
    rw [toNat_opX, toNat_wordXYN]; have := x.isLt; have := y.isLt; have := n.isLt; omega)

@[simp] theorem opY_wordXYN : opY (wordXYN o x y n) = y :=
  BitVec.eq_of_toNat_eq (by rw [toNat_opY, toNat_wordXYN]; have := y.isLt; have := n.isLt; omega)

@[simp] theorem opN_wordXYN : opN (wordXYN o x y n) = n :=
  BitVec.eq_of_toNat_eq (by rw [toNat_opN, toNat_wordXYN]; have := n.isLt; omega)

/-! ### A word is put together from its fields -/

theorem word_eq_wordNNN (op : Word) : op = wordNNN (opFamily op) (opNNN op) :=
  BitVec.eq_of_toNat_eq (by rw [toNat_wordNNN, toNat_opFamily, toNat_opNNN]; omega)

theorem word_eq_wordXNN (op : Word) : op = wordXNN (opFamily op) (opX op) (opNN op) :=
  BitVec.eq_of_toNat_eq (by rw [toNat_wordXNN, toNat_opFamily, toNat_opX, toNat_opNN]; omega)

theorem word_eq_wordXYN (op : Word) : op = wordXYN (opFamily op) (opX op) (opY op) (opN op) :=
  BitVec.eq_of_toNat_eq (by rw [toNat_wordXYN, toNat_opFamily, toNat_opX, toNat_opY, toNat_opN]; omega)

/-! ### The three masks -/

theorem and_wordXYN (o' x' y' n' : Nibble) :
    wordXYN o x y n &&& wordXYN o' x' y' n' = wordXYN (o &&& o') (x &&& x') (y &&& y') (n &&& n') := by
  simp only [wordXYN]
  rw [BitVec.and_append, BitVec.and_append, BitVec.and_append]

theorem and_maskF000 (op : Word) : op &&& 0xF000#16 = wordXYN (opFamily op) 0#4 0#4 0#4 := by
  conv_lhs => rw [word_eq_wordXYN op]
  rw [show (0xF000#16 : Word) = wordXYN 0xF#4 0#4 0#4 0#4 by decide, and_wordXYN]
  have h : ∀ a : Nibble, a &&& 15#4 = a := by decide
  simp [h]

theorem and_maskF00F (op : Word) : op &&& 0xF00F#16 = wordXYN (opFamily op) 0#4 0#4 (opN op) := by
  conv_lhs => rw [word_eq_wordXYN op]
  rw [show (0xF00F#16 : Word) = wordXYN 0xF#4 0#4 0#4 0xF#4 by decide, and_wordXYN]
  have h : ∀ a : Nibble, a &&& 15#4 = a := by decide
  simp [h]

theorem and_maskF0FF (op : Word) : op &&& 0xF0FF#16 = wordXYN (opFamily op) 0#4 (opY op) (opN op) := by
  conv_lhs => rw [word_eq_wordXYN op]
  rw [show (0xF0FF#16 : Word) = wordXYN 0xF#4 0#4 0xF#4 0xF#4 by decide, and_wordXYN]
  have h : ∀ a : Nibble, a &&& 15#4 = a := by decide
  simp [h]

/-- A word's family, from its bits under the mask 0xF000. -/
theorem opFamily_of_and {op w : Word} (h : op &&& 0xF000#16 = w) : opFamily op = opFamily w := by
  rw [← h, and_maskF000, opFamily_wordXYN]

/-- A word's family and low nibble, from its bits under the mask 0xF00F. -/
theorem fields_of_andF00F {op w : Word} (h : op &&& 0xF00F#16 = w) :
    opFamily op = opFamily w ∧ opN op = opN w := by
  rw [← h, and_maskF00F, opFamily_wordXYN, opN_wordXYN]
  exact ⟨rfl, rfl⟩

/-- A word's family and low byte, from its bits under the mask 0xF0FF. -/
theorem fields_of_andF0FF {op w : Word} (h : op &&& 0xF0FF#16 = w) :
    opFamily op = opFamily w ∧ opNN op = opNN w := by
  have hy : opY op = opY w := by rw [← h, and_maskF0FF, opY_wordXYN]
  have hn : opN op = opN w := by rw [← h, and_maskF0FF, opN_wordXYN]
  refine ⟨by rw [← h, and_maskF0FF, opFamily_wordXYN], BitVec.eq_of_toNat_eq ?_⟩
  have hy' := congrArg BitVec.toNat hy
  have hn' := congrArg BitVec.toNat hn
  rw [toNat_opY, toNat_opY] at hy'
  rw [toNat_opN, toNat_opN] at hn'
  rw [toNat_opNN, toNat_opNN]
  omega

/-- The two bytes of a word put together again. -/
@[simp] theorem joinBytes_hiByte_loByte (op : Word) : joinBytes (hiByte op) (loByte op) = op := by
  apply BitVec.eq_of_toNat_eq
  rw [show (joinBytes (hiByte op) (loByte op)).toNat = (hiByte op ++ loByte op).toNat from rfl,
    BitVec.toNat_append, ← Nat.shiftLeft_add_eq_or_of_lt (loByte op).isLt, Nat.shiftLeft_eq]
  have := op.isLt
  simp only [hiByte, loByte, BitVec.extractLsb'_toNat, Nat.shiftRight_eq_div_pow]
  omega

end Sys2Proof
end

