-- ==== Sys2Proof/Laws/Memory.lean ====
section
/-! SUPPORT. The laws of memory: a read after a write, and the canonical form, which every memory operation
keeps (spec 20_memory.md R38, R39). -/

namespace Sys2Proof.Machine

variable {font : Font}

theorem read_drop (m : Memory) (a c : Nat) :
    Memory.read font (Memory.drop m a) c = if c = a then resetByte font c else Memory.read font m c := by
  induction m with
  | nil => simp [Memory.drop, Memory.read]
  | cons cell m ih =>
    obtain ⟨b, w⟩ := cell
    by_cases h : a = b
    · subst h
      simp only [Memory.drop, if_pos, ih, Memory.read]
      split <;> simp_all
    · simp only [Memory.drop, if_neg h, Memory.read, ih]
      by_cases hc : c = b
      · simp [hc, Ne.symm h]
      · simp [hc]

theorem read_put (m : Memory) (a c : Nat) (x : Byte) :
    Memory.read font (Memory.put m a x) c = if c = a then x else Memory.read font m c := by
  induction m with
  | nil => simp [Memory.put, Memory.read]
  | cons cell m ih =>
    obtain ⟨b, w⟩ := cell
    by_cases hlt : a < b
    · simp [Memory.put, hlt, Memory.read]
    · by_cases heq : a = b
      · subst heq
        simp only [Memory.put, lt_irrefl, if_false, if_true, Memory.read]
        split <;> simp_all
      · simp only [Memory.put, hlt, heq, if_false, Memory.read, ih]
        by_cases hc : c = b
        · simp [hc, Ne.symm heq]
        · simp [hc]

/-- A read after a write gives the byte written, and every other address reads as before (R38, R39). -/
theorem read_write (m : Memory) (a c : Nat) (x : Byte) :
    Memory.read font (Memory.write font m a x) c = if c = a then x else Memory.read font m c := by
  unfold Memory.write
  split
  · rename_i h
    rw [read_drop]
    split <;> simp_all
  · exact read_put m a c x

/-! ### The canonical form -/

theorem wfFrom_mono {lo lo' : Nat} (h : lo' ≤ lo) {m : Memory} (hm : Memory.wfFrom font lo m = true) :
    Memory.wfFrom font lo' m = true := by
  cases m with
  | nil => rfl
  | cons cell m =>
    simp only [Memory.wfFrom, Bool.and_eq_true, decide_eq_true_eq] at hm ⊢
    exact ⟨⟨⟨by omega, hm.1.1.2⟩, hm.1.2⟩, hm.2⟩

theorem wfFrom_drop {lo : Nat} {m : Memory} (hm : Memory.wfFrom font lo m = true) (a : Nat) :
    Memory.wfFrom font lo (Memory.drop m a) = true := by
  induction m generalizing lo with
  | nil => rfl
  | cons cell m ih =>
    obtain ⟨b, w⟩ := cell
    simp only [Memory.wfFrom, Bool.and_eq_true, decide_eq_true_eq] at hm
    by_cases h : a = b
    · simp only [Memory.drop, if_pos h]
      exact wfFrom_mono (by omega) (ih hm.2)
    · simp only [Memory.drop, if_neg h, Memory.wfFrom, Bool.and_eq_true, decide_eq_true_eq]
      exact ⟨hm.1, ih hm.2⟩

theorem wfFrom_put {lo a : Nat} {x : Byte} {m : Memory} (hm : Memory.wfFrom font lo m = true)
    (hlo : lo ≤ a) (ha : a < Config.memSize) (hx : x ≠ resetByte font a) :
    Memory.wfFrom font lo (Memory.put m a x) = true := by
  induction m generalizing lo with
  | nil => simp [Memory.put, Memory.wfFrom, hlo, ha, hx]
  | cons cell m ih =>
    obtain ⟨b, w⟩ := cell
    simp only [Memory.wfFrom, Bool.and_eq_true, decide_eq_true_eq] at hm
    by_cases hlt : a < b
    · simp only [Memory.put, if_pos hlt, Memory.wfFrom, Bool.and_eq_true, decide_eq_true_eq]
      exact ⟨⟨⟨hlo, ha⟩, by simpa using hx⟩, ⟨⟨by omega, hm.1.1.2⟩, hm.1.2⟩, hm.2⟩
    · by_cases heq : a = b
      · subst heq
        simp only [Memory.put, lt_irrefl, if_false, if_true, Memory.wfFrom, Bool.and_eq_true,
          decide_eq_true_eq]
        exact ⟨⟨⟨hlo, ha⟩, by simpa using hx⟩, hm.2⟩
      · simp only [Memory.put, hlt, heq, if_false, Memory.wfFrom, Bool.and_eq_true, decide_eq_true_eq]
        exact ⟨hm.1, ih hm.2 (by omega)⟩

/-- A write keeps the canonical form. -/
theorem wf_write {m : Memory} (hm : Memory.wf font m = true) {a : Nat} (ha : a < Config.memSize) (x : Byte) :
    Memory.wf font (Memory.write font m a x) = true := by
  unfold Memory.write
  split
  · exact wfFrom_drop hm a
  · rename_i h
    exact wfFrom_put hm (Nat.zero_le a) ha h

theorem wrap_lt (a : Nat) : wrap a < Config.memSize := Nat.mod_lt _ (by decide)

/-- Storing bytes keeps the canonical form. -/
theorem wf_store {m : Memory} (hm : Memory.wf font m = true) (a : Nat) (xs : List Byte) :
    Memory.wf font (Memory.store font m a xs) = true := by
  induction xs generalizing m a with
  | nil => exact hm
  | cons x xs ih => exact ih (wf_write hm (wrap_lt a) x) (a + 1)

/-- An address none of the bytes is stored to reads as before. -/
theorem read_store_of_ne (m : Memory) (a : Nat) (xs : List Byte) (c : Nat)
    (h : ∀ k < xs.length, c ≠ wrap (a + k)) : Memory.read font (Memory.store font m a xs) c = Memory.read font m c := by
  induction xs generalizing m a with
  | nil => rfl
  | cons x xs ih =>
    simp only [Memory.store]
    rw [ih, read_write, if_neg]
    · simpa using h 0 (by simp)
    · intro k hk
      have := h (k + 1) (by simpa using hk)
      rwa [Nat.add_assoc, Nat.add_comm 1 k]

/-- The k-th byte stored is what its address then reads as, when the bytes do not wrap onto each other. -/
theorem read_store (m : Memory) (a : Nat) (xs : List Byte) (hlen : xs.length ≤ Config.memSize)
    (k : Nat) (hk : k < xs.length) : Memory.read font (Memory.store font m a xs) (wrap (a + k)) = xs[k] := by
  induction xs generalizing m a k with
  | nil => simp at hk
  | cons x xs ih =>
    simp only [List.length_cons] at hlen hk
    cases k with
    | zero =>
      simp only [Memory.store, Nat.add_zero, List.getElem_cons_zero]
      rw [read_store_of_ne, read_write, if_pos rfl]
      intro k hk'
      simp only [wrap, Config.memSize] at hlen ⊢
      omega
    | succ k =>
      have := ih (Memory.write font m (wrap a) x) (a + 1) (by omega) k (by omega)
      simpa [Memory.store, Nat.add_assoc, Nat.add_comm 1 k] using this

/-- The byte read after a store, at an address given modulo 4096. -/
theorem memRead_memStore_of_ne (s : State) (a : Nat) (xs : List Byte) (c : Nat)
    (h : ∀ k < xs.length, wrap c ≠ wrap (a + k)) : (s.memStore a xs).memRead c = s.memRead c :=
  read_store_of_ne s.mem a xs (wrap c) h

theorem memRead_memStore (s : State) (a : Nat) (xs : List Byte) (hlen : xs.length ≤ Config.memSize)
    (k : Nat) (hk : k < xs.length) : (s.memStore a xs).memRead (a + k) = xs[k] :=
  read_store s.mem a xs hlen k hk

end Sys2Proof.Machine
end

