-- ==== Sys2Proof/Laws/State.lean ====
section
/-! SUPPORT. One lemma for each field and each named update of the state, and for each reader of the state,
true by definition, so that no later proof unfolds a record update. -/

namespace Sys2Proof.Machine

variable (s : State)

/-! ### VF is a register -/

@[simp] theorem setVF_eq_setReg (b : Byte) : s.setVF b = s.setReg vf b := rfl

/-! ### setReg -/

@[simp] theorem setReg_mem (x : Nibble) (b : Byte) : (s.setReg x b).mem = s.mem := rfl
@[simp] theorem setReg_v (x : Nibble) (b : Byte) : (s.setReg x b).v = s.v.set x.toNat b x.isLt := rfl
@[simp] theorem setReg_i (x : Nibble) (b : Byte) : (s.setReg x b).i = s.i := rfl
@[simp] theorem setReg_pc (x : Nibble) (b : Byte) : (s.setReg x b).pc = s.pc := rfl
@[simp] theorem setReg_stack (x : Nibble) (b : Byte) : (s.setReg x b).stack = s.stack := rfl
@[simp] theorem setReg_sp (x : Nibble) (b : Byte) : (s.setReg x b).sp = s.sp := rfl
@[simp] theorem setReg_dt (x : Nibble) (b : Byte) : (s.setReg x b).dt = s.dt := rfl
@[simp] theorem setReg_st (x : Nibble) (b : Byte) : (s.setReg x b).st = s.st := rfl
@[simp] theorem setReg_fb (x : Nibble) (b : Byte) : (s.setReg x b).fb = s.fb := rfl
@[simp] theorem setReg_key (x : Nibble) (b : Byte) : (s.setReg x b).key = s.key := rfl
@[simp] theorem setReg_drawFlag (x : Nibble) (b : Byte) : (s.setReg x b).drawFlag = s.drawFlag := rfl
@[simp] theorem setReg_fault (x : Nibble) (b : Byte) : (s.setReg x b).fault = s.fault := rfl
@[simp] theorem setReg_waitKey (x : Nibble) (b : Byte) : (s.setReg x b).waitKey = s.waitKey := rfl
@[simp] theorem setReg_schedule (x : Nibble) (b : Byte) : (s.setReg x b).schedule = s.schedule := rfl
@[simp] theorem setReg_stream (x : Nibble) (b : Byte) : (s.setReg x b).stream = s.stream := rfl
@[simp] theorem setReg_font (x : Nibble) (b : Byte) : (s.setReg x b).font = s.font := rfl
@[simp] theorem setReg_events (x : Nibble) (b : Byte) : (s.setReg x b).events = s.events := rfl
@[simp] theorem setReg_loadOpen (x : Nibble) (b : Byte) : (s.setReg x b).loadOpen = s.loadOpen := rfl
@[simp] theorem setReg_draws (x : Nibble) (b : Byte) : (s.setReg x b).draws = s.draws := rfl
@[simp] theorem setReg_memRead (x : Nibble) (b : Byte) (n : Nat) : (s.setReg x b).memRead n = s.memRead n := rfl
@[simp] theorem setReg_pixel (x : Nibble) (b : Byte) (p : Nat) : (s.setReg x b).pixel p = s.pixel p := rfl
@[simp] theorem setReg_halted (x : Nibble) (b : Byte) : (s.setReg x b).halted = s.halted := rfl

/-! ### setIndex -/

@[simp] theorem setIndex_mem (w : Word) : (s.setIndex w).mem = s.mem := rfl
@[simp] theorem setIndex_v (w : Word) : (s.setIndex w).v = s.v := rfl
@[simp] theorem setIndex_i (w : Word) : (s.setIndex w).i = w := rfl
@[simp] theorem setIndex_pc (w : Word) : (s.setIndex w).pc = s.pc := rfl
@[simp] theorem setIndex_stack (w : Word) : (s.setIndex w).stack = s.stack := rfl
@[simp] theorem setIndex_sp (w : Word) : (s.setIndex w).sp = s.sp := rfl
@[simp] theorem setIndex_dt (w : Word) : (s.setIndex w).dt = s.dt := rfl
@[simp] theorem setIndex_st (w : Word) : (s.setIndex w).st = s.st := rfl
@[simp] theorem setIndex_fb (w : Word) : (s.setIndex w).fb = s.fb := rfl
@[simp] theorem setIndex_key (w : Word) : (s.setIndex w).key = s.key := rfl
@[simp] theorem setIndex_drawFlag (w : Word) : (s.setIndex w).drawFlag = s.drawFlag := rfl
@[simp] theorem setIndex_fault (w : Word) : (s.setIndex w).fault = s.fault := rfl
@[simp] theorem setIndex_waitKey (w : Word) : (s.setIndex w).waitKey = s.waitKey := rfl
@[simp] theorem setIndex_schedule (w : Word) : (s.setIndex w).schedule = s.schedule := rfl
@[simp] theorem setIndex_stream (w : Word) : (s.setIndex w).stream = s.stream := rfl
@[simp] theorem setIndex_font (w : Word) : (s.setIndex w).font = s.font := rfl
@[simp] theorem setIndex_events (w : Word) : (s.setIndex w).events = s.events := rfl
@[simp] theorem setIndex_loadOpen (w : Word) : (s.setIndex w).loadOpen = s.loadOpen := rfl
@[simp] theorem setIndex_draws (w : Word) : (s.setIndex w).draws = s.draws := rfl
@[simp] theorem setIndex_reg (w : Word) (r : Nibble) : (s.setIndex w).reg r = s.reg r := rfl
@[simp] theorem setIndex_memRead (w : Word) (n : Nat) : (s.setIndex w).memRead n = s.memRead n := rfl
@[simp] theorem setIndex_pixel (w : Word) (p : Nat) : (s.setIndex w).pixel p = s.pixel p := rfl
@[simp] theorem setIndex_halted (w : Word) : (s.setIndex w).halted = s.halted := rfl

/-! ### setPc -/

@[simp] theorem setPc_mem (w : Word) : (s.setPc w).mem = s.mem := rfl
@[simp] theorem setPc_v (w : Word) : (s.setPc w).v = s.v := rfl
@[simp] theorem setPc_i (w : Word) : (s.setPc w).i = s.i := rfl
@[simp] theorem setPc_pc (w : Word) : (s.setPc w).pc = w := rfl
@[simp] theorem setPc_stack (w : Word) : (s.setPc w).stack = s.stack := rfl
@[simp] theorem setPc_sp (w : Word) : (s.setPc w).sp = s.sp := rfl
@[simp] theorem setPc_dt (w : Word) : (s.setPc w).dt = s.dt := rfl
@[simp] theorem setPc_st (w : Word) : (s.setPc w).st = s.st := rfl
@[simp] theorem setPc_fb (w : Word) : (s.setPc w).fb = s.fb := rfl
@[simp] theorem setPc_key (w : Word) : (s.setPc w).key = s.key := rfl
@[simp] theorem setPc_drawFlag (w : Word) : (s.setPc w).drawFlag = s.drawFlag := rfl
@[simp] theorem setPc_fault (w : Word) : (s.setPc w).fault = s.fault := rfl
@[simp] theorem setPc_waitKey (w : Word) : (s.setPc w).waitKey = s.waitKey := rfl
@[simp] theorem setPc_schedule (w : Word) : (s.setPc w).schedule = s.schedule := rfl
@[simp] theorem setPc_stream (w : Word) : (s.setPc w).stream = s.stream := rfl
@[simp] theorem setPc_font (w : Word) : (s.setPc w).font = s.font := rfl
@[simp] theorem setPc_events (w : Word) : (s.setPc w).events = s.events := rfl
@[simp] theorem setPc_loadOpen (w : Word) : (s.setPc w).loadOpen = s.loadOpen := rfl
@[simp] theorem setPc_draws (w : Word) : (s.setPc w).draws = s.draws := rfl
@[simp] theorem setPc_reg (w : Word) (r : Nibble) : (s.setPc w).reg r = s.reg r := rfl
@[simp] theorem setPc_memRead (w : Word) (n : Nat) : (s.setPc w).memRead n = s.memRead n := rfl
@[simp] theorem setPc_pixel (w : Word) (p : Nat) : (s.setPc w).pixel p = s.pixel p := rfl
@[simp] theorem setPc_halted (w : Word) : (s.setPc w).halted = s.halted := rfl

/-! ### advance -/

@[simp] theorem advance_mem : (s.advance).mem = s.mem := rfl
@[simp] theorem advance_v : (s.advance).v = s.v := rfl
@[simp] theorem advance_i : (s.advance).i = s.i := rfl
@[simp] theorem advance_pc : (s.advance).pc = s.pc + 2#16 := rfl
@[simp] theorem advance_stack : (s.advance).stack = s.stack := rfl
@[simp] theorem advance_sp : (s.advance).sp = s.sp := rfl
@[simp] theorem advance_dt : (s.advance).dt = s.dt := rfl
@[simp] theorem advance_st : (s.advance).st = s.st := rfl
@[simp] theorem advance_fb : (s.advance).fb = s.fb := rfl
@[simp] theorem advance_key : (s.advance).key = s.key := rfl
@[simp] theorem advance_drawFlag : (s.advance).drawFlag = s.drawFlag := rfl
@[simp] theorem advance_fault : (s.advance).fault = s.fault := rfl
@[simp] theorem advance_waitKey : (s.advance).waitKey = s.waitKey := rfl
@[simp] theorem advance_schedule : (s.advance).schedule = s.schedule := rfl
@[simp] theorem advance_stream : (s.advance).stream = s.stream := rfl
@[simp] theorem advance_font : (s.advance).font = s.font := rfl
@[simp] theorem advance_events : (s.advance).events = s.events := rfl
@[simp] theorem advance_loadOpen : (s.advance).loadOpen = s.loadOpen := rfl
@[simp] theorem advance_draws : (s.advance).draws = s.draws := rfl
@[simp] theorem advance_reg (r : Nibble) : (s.advance).reg r = s.reg r := rfl
@[simp] theorem advance_memRead (n : Nat) : (s.advance).memRead n = s.memRead n := rfl
@[simp] theorem advance_pixel (p : Nat) : (s.advance).pixel p = s.pixel p := rfl
@[simp] theorem advance_halted : (s.advance).halted = s.halted := rfl

/-! ### skipIf -/

@[simp] theorem skipIf_mem (c : Bool) : (s.skipIf c).mem = s.mem := rfl
@[simp] theorem skipIf_v (c : Bool) : (s.skipIf c).v = s.v := rfl
@[simp] theorem skipIf_i (c : Bool) : (s.skipIf c).i = s.i := rfl
@[simp] theorem skipIf_pc (c : Bool) : (s.skipIf c).pc = if c then s.pc + 4#16 else s.pc + 2#16 := rfl
@[simp] theorem skipIf_stack (c : Bool) : (s.skipIf c).stack = s.stack := rfl
@[simp] theorem skipIf_sp (c : Bool) : (s.skipIf c).sp = s.sp := rfl
@[simp] theorem skipIf_dt (c : Bool) : (s.skipIf c).dt = s.dt := rfl
@[simp] theorem skipIf_st (c : Bool) : (s.skipIf c).st = s.st := rfl
@[simp] theorem skipIf_fb (c : Bool) : (s.skipIf c).fb = s.fb := rfl
@[simp] theorem skipIf_key (c : Bool) : (s.skipIf c).key = s.key := rfl
@[simp] theorem skipIf_drawFlag (c : Bool) : (s.skipIf c).drawFlag = s.drawFlag := rfl
@[simp] theorem skipIf_fault (c : Bool) : (s.skipIf c).fault = s.fault := rfl
@[simp] theorem skipIf_waitKey (c : Bool) : (s.skipIf c).waitKey = s.waitKey := rfl
@[simp] theorem skipIf_schedule (c : Bool) : (s.skipIf c).schedule = s.schedule := rfl
@[simp] theorem skipIf_stream (c : Bool) : (s.skipIf c).stream = s.stream := rfl
@[simp] theorem skipIf_font (c : Bool) : (s.skipIf c).font = s.font := rfl
@[simp] theorem skipIf_events (c : Bool) : (s.skipIf c).events = s.events := rfl
@[simp] theorem skipIf_loadOpen (c : Bool) : (s.skipIf c).loadOpen = s.loadOpen := rfl
@[simp] theorem skipIf_draws (c : Bool) : (s.skipIf c).draws = s.draws := rfl
@[simp] theorem skipIf_reg (c : Bool) (r : Nibble) : (s.skipIf c).reg r = s.reg r := rfl
@[simp] theorem skipIf_memRead (c : Bool) (n : Nat) : (s.skipIf c).memRead n = s.memRead n := rfl
@[simp] theorem skipIf_pixel (c : Bool) (p : Nat) : (s.skipIf c).pixel p = s.pixel p := rfl
@[simp] theorem skipIf_halted (c : Bool) : (s.skipIf c).halted = s.halted := rfl

/-! ### setDt -/

@[simp] theorem setDt_mem (b : Byte) : (s.setDt b).mem = s.mem := rfl
@[simp] theorem setDt_v (b : Byte) : (s.setDt b).v = s.v := rfl
@[simp] theorem setDt_i (b : Byte) : (s.setDt b).i = s.i := rfl
@[simp] theorem setDt_pc (b : Byte) : (s.setDt b).pc = s.pc := rfl
@[simp] theorem setDt_stack (b : Byte) : (s.setDt b).stack = s.stack := rfl
@[simp] theorem setDt_sp (b : Byte) : (s.setDt b).sp = s.sp := rfl
@[simp] theorem setDt_dt (b : Byte) : (s.setDt b).dt = b := rfl
@[simp] theorem setDt_st (b : Byte) : (s.setDt b).st = s.st := rfl
@[simp] theorem setDt_fb (b : Byte) : (s.setDt b).fb = s.fb := rfl
@[simp] theorem setDt_key (b : Byte) : (s.setDt b).key = s.key := rfl
@[simp] theorem setDt_drawFlag (b : Byte) : (s.setDt b).drawFlag = s.drawFlag := rfl
@[simp] theorem setDt_fault (b : Byte) : (s.setDt b).fault = s.fault := rfl
@[simp] theorem setDt_waitKey (b : Byte) : (s.setDt b).waitKey = s.waitKey := rfl
@[simp] theorem setDt_schedule (b : Byte) : (s.setDt b).schedule = s.schedule := rfl
@[simp] theorem setDt_stream (b : Byte) : (s.setDt b).stream = s.stream := rfl
@[simp] theorem setDt_font (b : Byte) : (s.setDt b).font = s.font := rfl
@[simp] theorem setDt_events (b : Byte) : (s.setDt b).events = s.events := rfl
@[simp] theorem setDt_loadOpen (b : Byte) : (s.setDt b).loadOpen = s.loadOpen := rfl
@[simp] theorem setDt_draws (b : Byte) : (s.setDt b).draws = s.draws := rfl
@[simp] theorem setDt_reg (b : Byte) (r : Nibble) : (s.setDt b).reg r = s.reg r := rfl
@[simp] theorem setDt_memRead (b : Byte) (n : Nat) : (s.setDt b).memRead n = s.memRead n := rfl
@[simp] theorem setDt_pixel (b : Byte) (p : Nat) : (s.setDt b).pixel p = s.pixel p := rfl
@[simp] theorem setDt_halted (b : Byte) : (s.setDt b).halted = s.halted := rfl

/-! ### setSt -/

@[simp] theorem setSt_mem (b : Byte) : (s.setSt b).mem = s.mem := rfl
@[simp] theorem setSt_v (b : Byte) : (s.setSt b).v = s.v := rfl
@[simp] theorem setSt_i (b : Byte) : (s.setSt b).i = s.i := rfl
@[simp] theorem setSt_pc (b : Byte) : (s.setSt b).pc = s.pc := rfl
@[simp] theorem setSt_stack (b : Byte) : (s.setSt b).stack = s.stack := rfl
@[simp] theorem setSt_sp (b : Byte) : (s.setSt b).sp = s.sp := rfl
@[simp] theorem setSt_dt (b : Byte) : (s.setSt b).dt = s.dt := rfl
@[simp] theorem setSt_st (b : Byte) : (s.setSt b).st = b := rfl
@[simp] theorem setSt_fb (b : Byte) : (s.setSt b).fb = s.fb := rfl
@[simp] theorem setSt_key (b : Byte) : (s.setSt b).key = s.key := rfl
@[simp] theorem setSt_drawFlag (b : Byte) : (s.setSt b).drawFlag = s.drawFlag := rfl
@[simp] theorem setSt_fault (b : Byte) : (s.setSt b).fault = s.fault := rfl
@[simp] theorem setSt_waitKey (b : Byte) : (s.setSt b).waitKey = s.waitKey := rfl
@[simp] theorem setSt_schedule (b : Byte) : (s.setSt b).schedule = s.schedule := rfl
@[simp] theorem setSt_stream (b : Byte) : (s.setSt b).stream = s.stream := rfl
@[simp] theorem setSt_font (b : Byte) : (s.setSt b).font = s.font := rfl
@[simp] theorem setSt_events (b : Byte) : (s.setSt b).events = s.events := rfl
@[simp] theorem setSt_loadOpen (b : Byte) : (s.setSt b).loadOpen = s.loadOpen := rfl
@[simp] theorem setSt_draws (b : Byte) : (s.setSt b).draws = s.draws := rfl
@[simp] theorem setSt_reg (b : Byte) (r : Nibble) : (s.setSt b).reg r = s.reg r := rfl
@[simp] theorem setSt_memRead (b : Byte) (n : Nat) : (s.setSt b).memRead n = s.memRead n := rfl
@[simp] theorem setSt_pixel (b : Byte) (p : Nat) : (s.setSt b).pixel p = s.pixel p := rfl
@[simp] theorem setSt_halted (b : Byte) : (s.setSt b).halted = s.halted := rfl

/-! ### setWait -/

@[simp] theorem setWait_mem (c : Bool) : (s.setWait c).mem = s.mem := rfl
@[simp] theorem setWait_v (c : Bool) : (s.setWait c).v = s.v := rfl
@[simp] theorem setWait_i (c : Bool) : (s.setWait c).i = s.i := rfl
@[simp] theorem setWait_pc (c : Bool) : (s.setWait c).pc = s.pc := rfl
@[simp] theorem setWait_stack (c : Bool) : (s.setWait c).stack = s.stack := rfl
@[simp] theorem setWait_sp (c : Bool) : (s.setWait c).sp = s.sp := rfl
@[simp] theorem setWait_dt (c : Bool) : (s.setWait c).dt = s.dt := rfl
@[simp] theorem setWait_st (c : Bool) : (s.setWait c).st = s.st := rfl
@[simp] theorem setWait_fb (c : Bool) : (s.setWait c).fb = s.fb := rfl
@[simp] theorem setWait_key (c : Bool) : (s.setWait c).key = s.key := rfl
@[simp] theorem setWait_drawFlag (c : Bool) : (s.setWait c).drawFlag = s.drawFlag := rfl
@[simp] theorem setWait_fault (c : Bool) : (s.setWait c).fault = s.fault := rfl
@[simp] theorem setWait_waitKey (c : Bool) : (s.setWait c).waitKey = c := rfl
@[simp] theorem setWait_schedule (c : Bool) : (s.setWait c).schedule = s.schedule := rfl
@[simp] theorem setWait_stream (c : Bool) : (s.setWait c).stream = s.stream := rfl
@[simp] theorem setWait_font (c : Bool) : (s.setWait c).font = s.font := rfl
@[simp] theorem setWait_events (c : Bool) : (s.setWait c).events = s.events := rfl
@[simp] theorem setWait_loadOpen (c : Bool) : (s.setWait c).loadOpen = s.loadOpen := rfl
@[simp] theorem setWait_draws (c : Bool) : (s.setWait c).draws = s.draws := rfl
@[simp] theorem setWait_reg (c : Bool) (r : Nibble) : (s.setWait c).reg r = s.reg r := rfl
@[simp] theorem setWait_memRead (c : Bool) (n : Nat) : (s.setWait c).memRead n = s.memRead n := rfl
@[simp] theorem setWait_pixel (c : Bool) (p : Nat) : (s.setWait c).pixel p = s.pixel p := rfl
@[simp] theorem setWait_halted (c : Bool) : (s.setWait c).halted = s.halted := rfl

/-! ### memStore -/

@[simp] theorem memStore_mem (a : Nat) (xs : List Byte) : (s.memStore a xs).mem = Memory.store s.font s.mem a xs := rfl
@[simp] theorem memStore_v (a : Nat) (xs : List Byte) : (s.memStore a xs).v = s.v := rfl
@[simp] theorem memStore_i (a : Nat) (xs : List Byte) : (s.memStore a xs).i = s.i := rfl
@[simp] theorem memStore_pc (a : Nat) (xs : List Byte) : (s.memStore a xs).pc = s.pc := rfl
@[simp] theorem memStore_stack (a : Nat) (xs : List Byte) : (s.memStore a xs).stack = s.stack := rfl
@[simp] theorem memStore_sp (a : Nat) (xs : List Byte) : (s.memStore a xs).sp = s.sp := rfl
@[simp] theorem memStore_dt (a : Nat) (xs : List Byte) : (s.memStore a xs).dt = s.dt := rfl
@[simp] theorem memStore_st (a : Nat) (xs : List Byte) : (s.memStore a xs).st = s.st := rfl
@[simp] theorem memStore_fb (a : Nat) (xs : List Byte) : (s.memStore a xs).fb = s.fb := rfl
@[simp] theorem memStore_key (a : Nat) (xs : List Byte) : (s.memStore a xs).key = s.key := rfl
@[simp] theorem memStore_drawFlag (a : Nat) (xs : List Byte) : (s.memStore a xs).drawFlag = s.drawFlag := rfl
@[simp] theorem memStore_fault (a : Nat) (xs : List Byte) : (s.memStore a xs).fault = s.fault := rfl
@[simp] theorem memStore_waitKey (a : Nat) (xs : List Byte) : (s.memStore a xs).waitKey = s.waitKey := rfl
@[simp] theorem memStore_schedule (a : Nat) (xs : List Byte) : (s.memStore a xs).schedule = s.schedule := rfl
@[simp] theorem memStore_stream (a : Nat) (xs : List Byte) : (s.memStore a xs).stream = s.stream := rfl
@[simp] theorem memStore_font (a : Nat) (xs : List Byte) : (s.memStore a xs).font = s.font := rfl
@[simp] theorem memStore_events (a : Nat) (xs : List Byte) : (s.memStore a xs).events = s.events := rfl
@[simp] theorem memStore_loadOpen (a : Nat) (xs : List Byte) : (s.memStore a xs).loadOpen = s.loadOpen := rfl
@[simp] theorem memStore_draws (a : Nat) (xs : List Byte) : (s.memStore a xs).draws = s.draws := rfl
@[simp] theorem memStore_reg (a : Nat) (xs : List Byte) (r : Nibble) : (s.memStore a xs).reg r = s.reg r := rfl
@[simp] theorem memStore_pixel (a : Nat) (xs : List Byte) (p : Nat) : (s.memStore a xs).pixel p = s.pixel p := rfl
@[simp] theorem memStore_halted (a : Nat) (xs : List Byte) : (s.memStore a xs).halted = s.halted := rfl

/-! ### setFb -/

@[simp] theorem setFb_mem (fb : Framebuffer) : (s.setFb fb).mem = s.mem := rfl
@[simp] theorem setFb_v (fb : Framebuffer) : (s.setFb fb).v = s.v := rfl
@[simp] theorem setFb_i (fb : Framebuffer) : (s.setFb fb).i = s.i := rfl
@[simp] theorem setFb_pc (fb : Framebuffer) : (s.setFb fb).pc = s.pc := rfl
@[simp] theorem setFb_stack (fb : Framebuffer) : (s.setFb fb).stack = s.stack := rfl
@[simp] theorem setFb_sp (fb : Framebuffer) : (s.setFb fb).sp = s.sp := rfl
@[simp] theorem setFb_dt (fb : Framebuffer) : (s.setFb fb).dt = s.dt := rfl
@[simp] theorem setFb_st (fb : Framebuffer) : (s.setFb fb).st = s.st := rfl
@[simp] theorem setFb_fb (fb : Framebuffer) : (s.setFb fb).fb = fb := rfl
@[simp] theorem setFb_key (fb : Framebuffer) : (s.setFb fb).key = s.key := rfl
@[simp] theorem setFb_drawFlag (fb : Framebuffer) : (s.setFb fb).drawFlag = true := rfl
@[simp] theorem setFb_fault (fb : Framebuffer) : (s.setFb fb).fault = s.fault := rfl
@[simp] theorem setFb_waitKey (fb : Framebuffer) : (s.setFb fb).waitKey = s.waitKey := rfl
@[simp] theorem setFb_schedule (fb : Framebuffer) : (s.setFb fb).schedule = s.schedule := rfl
@[simp] theorem setFb_stream (fb : Framebuffer) : (s.setFb fb).stream = s.stream := rfl
@[simp] theorem setFb_font (fb : Framebuffer) : (s.setFb fb).font = s.font := rfl
@[simp] theorem setFb_events (fb : Framebuffer) : (s.setFb fb).events = s.events := rfl
@[simp] theorem setFb_loadOpen (fb : Framebuffer) : (s.setFb fb).loadOpen = s.loadOpen := rfl
@[simp] theorem setFb_draws (fb : Framebuffer) : (s.setFb fb).draws = s.draws := rfl
@[simp] theorem setFb_reg (fb : Framebuffer) (r : Nibble) : (s.setFb fb).reg r = s.reg r := rfl
@[simp] theorem setFb_memRead (fb : Framebuffer) (n : Nat) : (s.setFb fb).memRead n = s.memRead n := rfl
@[simp] theorem setFb_halted (fb : Framebuffer) : (s.setFb fb).halted = s.halted := rfl

/-! ### emit -/

@[simp] theorem emit_mem (e : Event) : (s.emit e).mem = s.mem := rfl
@[simp] theorem emit_v (e : Event) : (s.emit e).v = s.v := rfl
@[simp] theorem emit_i (e : Event) : (s.emit e).i = s.i := rfl
@[simp] theorem emit_pc (e : Event) : (s.emit e).pc = s.pc := rfl
@[simp] theorem emit_stack (e : Event) : (s.emit e).stack = s.stack := rfl
@[simp] theorem emit_sp (e : Event) : (s.emit e).sp = s.sp := rfl
@[simp] theorem emit_dt (e : Event) : (s.emit e).dt = s.dt := rfl
@[simp] theorem emit_st (e : Event) : (s.emit e).st = s.st := rfl
@[simp] theorem emit_fb (e : Event) : (s.emit e).fb = s.fb := rfl
@[simp] theorem emit_key (e : Event) : (s.emit e).key = s.key := rfl
@[simp] theorem emit_drawFlag (e : Event) : (s.emit e).drawFlag = s.drawFlag := rfl
@[simp] theorem emit_fault (e : Event) : (s.emit e).fault = s.fault := rfl
@[simp] theorem emit_waitKey (e : Event) : (s.emit e).waitKey = s.waitKey := rfl
@[simp] theorem emit_schedule (e : Event) : (s.emit e).schedule = s.schedule := rfl
@[simp] theorem emit_stream (e : Event) : (s.emit e).stream = s.stream := rfl
@[simp] theorem emit_font (e : Event) : (s.emit e).font = s.font := rfl
@[simp] theorem emit_events (e : Event) : (s.emit e).events = s.events ++ [e] := rfl
@[simp] theorem emit_loadOpen (e : Event) : (s.emit e).loadOpen = s.loadOpen := rfl
@[simp] theorem emit_draws (e : Event) : (s.emit e).draws = s.draws := rfl
@[simp] theorem emit_reg (e : Event) (r : Nibble) : (s.emit e).reg r = s.reg r := rfl
@[simp] theorem emit_memRead (e : Event) (n : Nat) : (s.emit e).memRead n = s.memRead n := rfl
@[simp] theorem emit_pixel (e : Event) (p : Nat) : (s.emit e).pixel p = s.pixel p := rfl
@[simp] theorem emit_halted (e : Event) : (s.emit e).halted = s.halted := rfl

/-! ### drawn -/

@[simp] theorem drawn_mem : (s.drawn).mem = s.mem := rfl
@[simp] theorem drawn_v : (s.drawn).v = s.v := rfl
@[simp] theorem drawn_i : (s.drawn).i = s.i := rfl
@[simp] theorem drawn_pc : (s.drawn).pc = s.pc := rfl
@[simp] theorem drawn_stack : (s.drawn).stack = s.stack := rfl
@[simp] theorem drawn_sp : (s.drawn).sp = s.sp := rfl
@[simp] theorem drawn_dt : (s.drawn).dt = s.dt := rfl
@[simp] theorem drawn_st : (s.drawn).st = s.st := rfl
@[simp] theorem drawn_fb : (s.drawn).fb = s.fb := rfl
@[simp] theorem drawn_key : (s.drawn).key = s.key := rfl
@[simp] theorem drawn_drawFlag : (s.drawn).drawFlag = s.drawFlag := rfl
@[simp] theorem drawn_fault : (s.drawn).fault = s.fault := rfl
@[simp] theorem drawn_waitKey : (s.drawn).waitKey = s.waitKey := rfl
@[simp] theorem drawn_schedule : (s.drawn).schedule = s.schedule := rfl
@[simp] theorem drawn_stream : (s.drawn).stream = s.stream := rfl
@[simp] theorem drawn_font : (s.drawn).font = s.font := rfl
@[simp] theorem drawn_events : (s.drawn).events = s.events := rfl
@[simp] theorem drawn_loadOpen : (s.drawn).loadOpen = s.loadOpen := rfl
@[simp] theorem drawn_draws : (s.drawn).draws = s.draws + 1 := rfl
@[simp] theorem drawn_reg (r : Nibble) : (s.drawn).reg r = s.reg r := rfl
@[simp] theorem drawn_memRead (n : Nat) : (s.drawn).memRead n = s.memRead n := rfl
@[simp] theorem drawn_pixel (p : Nat) : (s.drawn).pixel p = s.pixel p := rfl
@[simp] theorem drawn_halted : (s.drawn).halted = s.halted := rfl

/-! ### takeFault -/

@[simp] theorem takeFault_mem (c : FaultCause) (op : Word) : (s.takeFault c op).mem = s.mem := rfl
@[simp] theorem takeFault_v (c : FaultCause) (op : Word) : (s.takeFault c op).v = s.v := rfl
@[simp] theorem takeFault_i (c : FaultCause) (op : Word) : (s.takeFault c op).i = s.i := rfl
@[simp] theorem takeFault_pc (c : FaultCause) (op : Word) : (s.takeFault c op).pc = s.pc := rfl
@[simp] theorem takeFault_stack (c : FaultCause) (op : Word) : (s.takeFault c op).stack = s.stack := rfl
@[simp] theorem takeFault_sp (c : FaultCause) (op : Word) : (s.takeFault c op).sp = s.sp := rfl
@[simp] theorem takeFault_dt (c : FaultCause) (op : Word) : (s.takeFault c op).dt = s.dt := rfl
@[simp] theorem takeFault_st (c : FaultCause) (op : Word) : (s.takeFault c op).st = s.st := rfl
@[simp] theorem takeFault_fb (c : FaultCause) (op : Word) : (s.takeFault c op).fb = s.fb := rfl
@[simp] theorem takeFault_key (c : FaultCause) (op : Word) : (s.takeFault c op).key = s.key := rfl
@[simp] theorem takeFault_drawFlag (c : FaultCause) (op : Word) : (s.takeFault c op).drawFlag = s.drawFlag := rfl
@[simp] theorem takeFault_fault (c : FaultCause) (op : Word) : (s.takeFault c op).fault = ⟨c, s.pc, op⟩ := rfl
@[simp] theorem takeFault_waitKey (c : FaultCause) (op : Word) : (s.takeFault c op).waitKey = s.waitKey := rfl
@[simp] theorem takeFault_schedule (c : FaultCause) (op : Word) : (s.takeFault c op).schedule = s.schedule := rfl
@[simp] theorem takeFault_stream (c : FaultCause) (op : Word) : (s.takeFault c op).stream = s.stream := rfl
@[simp] theorem takeFault_font (c : FaultCause) (op : Word) : (s.takeFault c op).font = s.font := rfl
@[simp] theorem takeFault_events (c : FaultCause) (op : Word) : (s.takeFault c op).events = s.events := rfl
@[simp] theorem takeFault_loadOpen (c : FaultCause) (op : Word) : (s.takeFault c op).loadOpen = s.loadOpen := rfl
@[simp] theorem takeFault_draws (c : FaultCause) (op : Word) : (s.takeFault c op).draws = s.draws := rfl
@[simp] theorem takeFault_reg (c : FaultCause) (op : Word) (r : Nibble) : (s.takeFault c op).reg r = s.reg r := rfl
@[simp] theorem takeFault_memRead (c : FaultCause) (op : Word) (n : Nat) : (s.takeFault c op).memRead n = s.memRead n := rfl
@[simp] theorem takeFault_pixel (c : FaultCause) (op : Word) (p : Nat) : (s.takeFault c op).pixel p = s.pixel p := rfl

/-! ### What the changing updates read as -/

@[simp] theorem setFb_pixel (fb : Framebuffer) (p : Nat) : (s.setFb fb).pixel p = fbPixel fb p := rfl

/-- A register reads back what was written to it, and the others are left alone (spec 10_state.md R14). -/
@[simp] theorem reg_setReg (x r : Nibble) (b : Byte) :
    (s.setReg x b).reg r = if r = x then b else s.reg r := by
  simp only [State.reg, State.setReg, Vector.getElem_set]
  by_cases h : r = x
  · simp [h]
  · have : x.toNat ≠ r.toNat := fun e => h (BitVec.eq_of_toNat_eq e.symm)
    simp [h, this]

/-- Two states whose registers all read the same hold the same register file. -/
theorem v_eq_of_reg_eq {s t : State} (h : ∀ r, t.reg r = s.reg r) : t.v = s.v := by
  apply Vector.ext
  intro k hk
  have := h (BitVec.ofNat 4 k)
  simp only [State.reg, BitVec.toNat_ofNat] at this
  simpa [Nat.mod_eq_of_lt hk] using this

/-- A taken fault halts the core unless its cause is "no fault". -/
@[simp] theorem takeFault_halted (c : FaultCause) (op : Word) :
    (s.takeFault c op).halted = (c != .noFault) := rfl

end Sys2Proof.Machine
end

