-- ==== Sys2Proof/Laws/Ops.lean ====
section
/-! SUPPORT. What the shared operations can do, said once: the call stack, the register list of FX65, the
fetch, the flags, and one lemma for each unit and for the step. -/

namespace Sys2Proof.Machine

/-! ### The call stack (spec 10_state.md R18) -/

theorem push_eq_none_iff (s : State) (w : Word) : s.push w = none ↔ s.sp.val = 16 := by
  have := s.sp.isLt
  unfold State.push
  split <;> simp <;> omega

/-- A push that succeeds changes `stack` and `sp` and nothing else. -/
theorem push_eq_some {s t : State} {w : Word} (h : s.push w = some t) :
    ∃ hs : s.sp.val < 16,
      t = { s with stack := s.stack.set s.sp.val w hs, sp := ⟨s.sp.val + 1, Nat.succ_lt_succ hs⟩ } := by
  unfold State.push at h
  split at h
  · rename_i hs
    exact ⟨hs, (Option.some.inj h).symm⟩
  · cases h

theorem pop_eq_none_iff (s : State) : s.pop = none ↔ s.sp.val = 0 := by
  unfold State.pop
  split <;> simp_all

/-- A pop that succeeds changes `sp` and nothing else, and hands back the entry below it. -/
theorem pop_eq_some {s t : State} {w : Word} (h : s.pop = some (w, t)) :
    ∃ n, ∃ hn : n < 16, s.sp.val = n + 1 ∧ w = s.stack[n] ∧
      t = { s with sp := ⟨n, Nat.lt_succ_of_lt hn⟩ } := by
  unfold State.pop at h
  split at h
  · cases h
  · rename_i n hn heq
    simp only [Option.some.injEq, Prod.mk.injEq] at h
    exact ⟨n, Nat.lt_of_succ_lt_succ hn, by rw [heq], h.1.symm, h.2.symm⟩

/-! ### The registers FX65 loads -/

/-- Loading a list of bytes into the registers from a number up touches the register file only. -/
theorem setRegsFrom_eq (s : State) (k : Nat) (bs : List Byte) :
    s.setRegsFrom k bs = { s with v := (s.setRegsFrom k bs).v } := by
  induction bs generalizing s k with
  | nil => rfl
  | cons b bs ih => simp only [State.setRegsFrom]; rw [ih]; rfl

/-- Register r holds the byte of the list that falls on it, and its old value when none does. -/
theorem reg_setRegsFrom (s : State) (k : Nat) (bs : List Byte) (hk : k + bs.length ≤ 16) (r : Nibble) :
    (s.setRegsFrom k bs).reg r =
      if h : k ≤ r.toNat ∧ r.toNat - k < bs.length then bs[r.toNat - k] else s.reg r := by
  induction bs generalizing s k with
  | nil => simp [State.setRegsFrom]
  | cons b bs ih =>
    simp only [List.length_cons] at hk
    simp only [State.setRegsFrom]
    rw [ih _ _ (by omega), reg_setReg]
    have hr : r = BitVec.ofNat 4 k ↔ r.toNat = k := by
      constructor
      · intro h; rw [h, BitVec.toNat_ofNat]; exact Nat.mod_eq_of_lt (by omega)
      · intro h; apply BitVec.eq_of_toNat_eq; rw [BitVec.toNat_ofNat, ← h]; exact (Nat.mod_eq_of_lt r.isLt).symm
    by_cases h1 : r.toNat = k
    · have : ¬ (k + 1 ≤ r.toNat) := by omega
      rw [dif_neg (by omega), if_pos (hr.2 h1), dif_pos (by simp [h1])]
      simp [h1]
    · simp only [hr, h1, if_false, List.length_cons]
      by_cases h2 : k + 1 ≤ r.toNat ∧ r.toNat - (k + 1) < bs.length
      · have h3 : k ≤ r.toNat ∧ r.toNat - k < bs.length + 1 := by omega
        rw [dif_pos h2, dif_pos h3]
        have : r.toNat - k = (r.toNat - (k + 1)) + 1 := by omega
        simp [this]
      · have h3 : ¬ (k ≤ r.toNat ∧ r.toNat - k < bs.length + 1) := by omega
        rw [dif_neg h2, dif_neg h3]

/-! ### The fetch -/

/-- The fetch depends on memory (with the `FONT` under it) and pc only. -/
theorem fetch_congr {s t : State} (hf : t.font = s.font) (hm : t.mem = s.mem) (hp : t.pc = s.pc) :
    t.fetch = s.fetch := by
  simp [State.fetch, State.memRead, hf, hm, hp]

/-! ### The flags -/

/-- A flag byte is 0 or 1 (R15). -/
theorem flagByte_cases (b : Bool) : flagByte b = 0x00#8 ∨ flagByte b = 0x01#8 := by cases b <;> simp [flagByte]

/-! ### The units -/

theorem halted_iff (s : State) : s.halted = true ↔ s.fault.cause ≠ .noFault := by simp [State.halted]

/-- A halted core's step changes nothing (spec 30_encoding.md R59). -/
theorem cycle_of_halted {s : State} (h : s.halted = true) : cycle s = .next s := by simp [cycle, h]

/-- A running core's step performs the instruction at pc, or passes over an unknown opcode (R57). -/
theorem cycle_of_running {s : State} (h : s.halted = false) :
    (∃ i, decodeWord s.fetch = .ok i ∧
      cycle s = exec i { s with waitKey := false, loadOpen := false }) ∨
    (∃ u, decodeWord s.fetch = .error u ∧
      cycle s = .next (skipUnknown s.fetch { s with waitKey := false, loadOpen := false })) := by
  cases hd : decodeWord s.fetch with
  | ok i => exact .inl ⟨i, rfl, by simp [cycle, h, hd]⟩
  | error u => exact .inr ⟨u, rfl, by simp [cycle, h, hd]⟩

/-- One step serves the unit the host requests next, and the unit says which. -/
theorem step_eq_serve (s : State) : step s = serve s.nextUnit s.takeUnit := rfl

theorem nextUnit_cons {s : State} {u : HostUnit} {us : List HostUnit} (h : s.schedule = u :: us) :
    s.nextUnit = u := by simp [State.nextUnit, h]

theorem step_of_cons {s : State} {u : HostUnit} {us : List HostUnit} (h : s.schedule = u :: us) :
    step s = serve u { s with schedule := us } := by
  simp [step_eq_serve, State.nextUnit, State.takeUnit, h]

/-- With nothing requested and no free sequence a step is the core's. -/
theorem step_of_nil {s : State} (h : s.schedule = []) (hn : s.stream = none) : step s = cycle s := by
  have ht : s.takeUnit = s := by
    cases s
    simp_all [State.takeUnit]
  rw [step_eq_serve, ht]
  simp [State.nextUnit, h, hn, serve]

/-- A run's first step, when it answers a next state. -/
theorem run_succ_of_next {M : Host.Core} {s t : M.State} (h : M.step s = .next t) (k : Nat) :
    M.run (k + 1) s = M.run k t := by
  rw [Host.Core.run, h]

/-- A run that answers a next state has a first step that does, and runs on from there. -/
theorem run_succ_eq_next {M : Host.Core} {s t : M.State} {k : Nat} (h : M.run (k + 1) s = .next t) :
    ∃ u, M.step s = .next u ∧ M.run k u = .next t := by
  rw [Host.Core.run] at h
  split at h
  · exact ⟨_, by assumption, h⟩
  · cases h
  · cases h

/-- What is requested depends on the two fields of the host's requests only. -/
theorem requested_congr {s t : State} (h1 : t.schedule = s.schedule) (h2 : t.stream = s.stream) (k : Nat) :
    requested k t = requested k s := by
  induction k generalizing s t with
  | zero => rfl
  | succ k ih =>
    have hn : t.nextUnit = s.nextUnit := by simp [State.nextUnit, h1, h2]
    simp only [requested, hn, List.cons.injEq, true_and]
    exact ih (by simp [State.takeUnit, h1]) (by simp [State.takeUnit, h1, h2])

/-- A host that requests a schedule and then only `step` keeps the protocol when the schedule does. -/
theorem keepsProtocol_of_schedule {s : State} (hn : s.stream = none)
    (h : scheduleWellFormed s.loadOpen s.schedule = true) : KeepsProtocol s := by
  intro k
  have go : ∀ (k : Nat) (o : Bool) (s : State), s.stream = none → scheduleWellFormed o s.schedule = true →
      scheduleWellFormed o (requested k s) = true := by
    intro k
    induction k with
    | zero => intros; rfl
    | succ k ih =>
      intro o s hn h
      have hs : s.takeUnit.stream = none := by simp [State.takeUnit, hn]
      cases hc : s.schedule with
      | nil =>
        have hu : s.nextUnit = .step := by simp [State.nextUnit, hc, hn]
        simp only [requested, hu, scheduleWellFormed, HostUnit.wellFormed, HostUnit.inOrder, Bool.true_and]
        exact ih _ _ hs (by simp [State.takeUnit, hc, scheduleWellFormed])
      | cons u us =>
        rw [hc] at h
        simp only [scheduleWellFormed, Bool.and_eq_true] at h
        simp only [requested, nextUnit_cons hc, scheduleWellFormed, h.1.1, h.1.2, Bool.true_and]
        exact ih _ _ hs (by simpa [State.takeUnit, hc] using h.2)
  exact go k _ s hn h

/-- `tickTimer` writes DT, ST and the event log and nothing else (spec 60_exceptions.md R110). -/
theorem tickTimer_eq (s : State) :
    tickTimer s = { s with
      dt := if s.dt.toNat > 0 then s.dt - 1#8 else s.dt
      st := if s.st.toNat > 0 then s.st - 1#8 else s.st
      events := if s.st.toNat = 1 then s.events ++ [.sound] else s.events } := by
  unfold tickTimer tickSound tickDelay
  by_cases hd : s.dt.toNat > 0 <;> by_cases h1 : s.st.toNat = 1 <;> by_cases h0 : s.st.toNat > 0 <;>
    simp [hd, h1, h0, State.setSt, State.setDt, State.emit]

/-- What a load can do: the three outcomes and when (spec 70_reset_and_hazards.md R121, R122, R124). -/
theorem loadProgram_cases (bytes : List Byte) (s : State) :
    (s.loadOpen = true ∧ bytes.length ≤ 3584 ∧
      loadProgram bytes s = .next { s.memStore Config.programBase bytes with loadOpen := false }) ∨
    (s.loadOpen = true ∧ 3584 < bytes.length ∧ loadProgram bytes s = .fault .oversizedRom) ∨
    (s.loadOpen = false ∧ loadProgram bytes s = .refused .lateLoad) := by
  have hm : Config.maxRom = 3584 := rfl
  cases ho : s.loadOpen
  · exact .inr (.inr ⟨rfl, by simp [loadProgram, ho]⟩)
  · by_cases hb : bytes.length ≤ 3584
    · exact .inl ⟨rfl, hb, by simp [loadProgram, ho, hm, hb]⟩
    · exact .inr (.inl ⟨rfl, by omega, by simp [loadProgram, ho, hm, hb]⟩)

end Sys2Proof.Machine
end

