-- ==== Sys2Proof/Laws/Display.lean ====
section
/-! SUPPORT. What the framebuffer operations can do: one pixel, one list of pixels toggled in order (spec
41_display.md R62 to R64). -/

namespace Sys2Proof.Machine

@[simp] theorem fbPixel_fbBlank (p : Nat) : fbPixel fbBlank p = false := by simp [fbPixel, fbBlank]

/-- Toggling a pixel changes that pixel and no other. -/
theorem fbPixel_fbFlip (fb : Framebuffer) (p q : Nat) (hq : q < 2048) :
    fbPixel (fbFlip fb p) q = (fbPixel fb q ^^ decide (p = q)) := by
  have h : q / 64 < 32 := by omega
  by_cases hp : p / 64 < 32
  · by_cases hr : p / 64 = q / 64
    · have hb : q % 64 = p % 64 ↔ p = q := by omega
      have hm : q % 64 < 64 := by omega
      simp [fbPixel, fbFlip, h, hr, hb, hm]
    · have hne : p ≠ q := by rintro rfl; exact hr rfl
      simp [fbPixel, fbFlip, h, hp, hr, hne]
  · have hne : p ≠ q := by omega
    simp [fbPixel, fbFlip, hp, hne]

/-- Drawing a list of different pixels toggles exactly those, and `collided` tells whether one of them was set
before. -/
theorem foldl_drawPixel (l : List Nat) (hn : l.Nodup) (hl : ∀ p ∈ l, p < 2048) (acc : Framebuffer × Bool) :
    (∀ q < 2048, fbPixel (l.foldl drawPixel acc).1 q = (fbPixel acc.1 q ^^ decide (q ∈ l))) ∧
    ((l.foldl drawPixel acc).2 = true ↔ acc.2 = true ∨ ∃ p ∈ l, fbPixel acc.1 p = true) := by
  induction l generalizing acc with
  | nil => simp
  | cons p l ih =>
    rw [List.nodup_cons] at hn
    obtain ⟨h1, h2⟩ := ih hn.2 (fun p hp => hl p (List.mem_cons_of_mem _ hp)) (drawPixel acc p)
    simp only [List.foldl_cons]
    constructor
    · intro q hq
      rw [h1 q hq]
      simp only [drawPixel, fbPixel_fbFlip _ _ _ hq, List.mem_cons]
      by_cases e : p = q
      · subst e
        simp [hn.1]
      · simp [e, Ne.symm e]
    · rw [h2]
      have hrest : (∃ q ∈ l, fbPixel (fbFlip acc.1 p) q = true) ↔ ∃ q ∈ l, fbPixel acc.1 q = true := by
        refine exists_congr fun q => and_congr_right fun hq => ?_
        have hne : p ≠ q := fun e => hn.1 (e ▸ hq)
        rw [fbPixel_fbFlip _ _ _ (hl q (List.mem_cons_of_mem _ hq))]
        simp [hne]
      simp only [drawPixel, Bool.or_eq_true, List.mem_cons, exists_eq_or_imp]
      rw [hrest]
      tauto

end Sys2Proof.Machine
end

