-- ==== Sys2Proof/Laws/Exec.lean ====
section
/-! SUPPORT. What every instruction leaves alone, said once over `exec`, so that a property of every step is not
proved by unfolding each meaning again. -/

namespace Sys2Proof.Machine

/-- Whatever the instruction: the host's part of the state stays, the draw flag never goes down, memory stays
canonical, and the fault record and `wait_key` change only with nothing else. -/
theorem exec_keeps {i : Instr} {s t : State} (h : exec i s = .next t) :
    t.key = s.key ∧ t.schedule = s.schedule ∧ t.events = s.events ∧ t.loadOpen = s.loadOpen ∧
    t.stream = s.stream ∧ t.font = s.font ∧
    (s.drawFlag = true → t.drawFlag = true) ∧ (Memory.wf s.font s.mem = true → Memory.wf t.font t.mem = true) ∧
    (t.fault = s.fault ∨ ∃ c, c ≠ .noFault ∧ t = s.takeFault c (encode i) ∧
      ((∃ nnn, i = .call nnn) ∨ i = .ret ∨ ∃ x, i = .skp x ∨ i = .sknp x)) ∧
    (t.waitKey = s.waitKey ∨ ((∃ x, i = .ldVxK x) ∧ t = s.setWait true)) := by
  cases i <;> (try (cases h; first | (simp; done) | (simp; exact fun hw => wf_store hw _ _)))
  all_goals simp only [exec, execRet, execCall, execSkp, execSknp, execLdVxK, execLdVxMem] at h
  · split at h
    · cases h; simpa using .inr ⟨_, by decide, rfl⟩
    · rename_i h2; obtain ⟨n, hn, -, -, rfl⟩ := pop_eq_some h2; cases h; simp
  · split at h
    · cases h; simpa using .inr ⟨_, by decide, rfl⟩
    · rename_i h2; obtain ⟨hs, rfl⟩ := push_eq_some h2; cases h; simp
  · split at h <;> cases h
    · simpa using .inr ⟨_, by decide, rfl⟩
    · simp
  · split at h <;> cases h
    · simpa using .inr ⟨_, by decide, rfl⟩
    · simp
  · split at h <;> cases h <;> simp
  · rw [setRegsFrom_eq] at h; cases h; simp

/-- No instruction stops the core: each answers a next state, from every state. -/
theorem exec_total (i : Instr) (s : State) : ∃ t, exec i s = .next t := by
  cases i <;> (try exact ⟨_, rfl⟩)
  all_goals simp only [exec, execRet, execCall, execSkp, execSknp, execLdVxK]
  all_goals split <;> exact ⟨_, rfl⟩

end Sys2Proof.Machine
end

