-- ==== Sys2Proof/Laws/PerInstr.lean ====
section
/-! SUPPORT. Statements made of every instruction as syntax, one lemma for each constructor. The family
`EncodesInRow` says that the word the encoder writes stands in the instruction's own row of the opcode map
(spec 30_encoding.md R54): no fixed bit of an encoding is written wrong. -/

namespace Sys2Proof.Laws.EncodesInRow

/-- The word of an instruction is selected by the instruction's row (R54). -/
def Statement (i : Instr) : Prop := (rowOf i).selects (encode i) = true

theorem cls : Statement .cls := rfl

theorem ret : Statement .ret := rfl

theorem jp (nnn : Addr12) : Statement (.jp nnn) := by
  simp [Statement, OpcodeRow.selects, rowOf, encode, and_maskF000]
  decide

theorem call (nnn : Addr12) : Statement (.call nnn) := by
  simp [Statement, OpcodeRow.selects, rowOf, encode, and_maskF000]
  decide

theorem seImm (x : Nibble) (nn : Byte) : Statement (.seImm x nn) := by
  simp [Statement, OpcodeRow.selects, rowOf, encode, and_maskF000]
  decide

theorem sneImm (x : Nibble) (nn : Byte) : Statement (.sneImm x nn) := by
  simp [Statement, OpcodeRow.selects, rowOf, encode, and_maskF000]
  decide

theorem seReg (x y : Nibble) : Statement (.seReg x y) := by
  simp [Statement, OpcodeRow.selects, rowOf, encode, and_maskF000]
  decide

theorem ldImm (x : Nibble) (nn : Byte) : Statement (.ldImm x nn) := by
  simp [Statement, OpcodeRow.selects, rowOf, encode, and_maskF000]
  decide

theorem addImm (x : Nibble) (nn : Byte) : Statement (.addImm x nn) := by
  simp [Statement, OpcodeRow.selects, rowOf, encode, and_maskF000]
  decide

theorem ldReg (x y : Nibble) : Statement (.ldReg x y) := by
  simp [Statement, OpcodeRow.selects, rowOf, encode, and_maskF00F]
  decide

theorem orReg (x y : Nibble) : Statement (.orReg x y) := by
  simp [Statement, OpcodeRow.selects, rowOf, encode, and_maskF00F]
  decide

theorem andReg (x y : Nibble) : Statement (.andReg x y) := by
  simp [Statement, OpcodeRow.selects, rowOf, encode, and_maskF00F]
  decide

theorem xorReg (x y : Nibble) : Statement (.xorReg x y) := by
  simp [Statement, OpcodeRow.selects, rowOf, encode, and_maskF00F]
  decide

theorem addReg (x y : Nibble) : Statement (.addReg x y) := by
  simp [Statement, OpcodeRow.selects, rowOf, encode, and_maskF00F]
  decide

theorem sub (x y : Nibble) : Statement (.sub x y) := by
  simp [Statement, OpcodeRow.selects, rowOf, encode, and_maskF00F]
  decide

theorem shr (x y : Nibble) : Statement (.shr x y) := by
  simp [Statement, OpcodeRow.selects, rowOf, encode, and_maskF00F]
  decide

theorem subn (x y : Nibble) : Statement (.subn x y) := by
  simp [Statement, OpcodeRow.selects, rowOf, encode, and_maskF00F]
  decide

theorem shl (x y : Nibble) : Statement (.shl x y) := by
  simp [Statement, OpcodeRow.selects, rowOf, encode, and_maskF00F]
  decide

theorem sneReg (x y : Nibble) : Statement (.sneReg x y) := by
  simp [Statement, OpcodeRow.selects, rowOf, encode, and_maskF000]
  decide

theorem ldI (nnn : Addr12) : Statement (.ldI nnn) := by
  simp [Statement, OpcodeRow.selects, rowOf, encode, and_maskF000]
  decide

theorem jpV0 (nnn : Addr12) : Statement (.jpV0 nnn) := by
  simp [Statement, OpcodeRow.selects, rowOf, encode, and_maskF000]
  decide

theorem rnd (x : Nibble) (nn : Byte) : Statement (.rnd x nn) := by
  simp [Statement, OpcodeRow.selects, rowOf, encode, and_maskF000]
  decide

theorem drw (x y n : Nibble) : Statement (.drw x y n) := by
  simp [Statement, OpcodeRow.selects, rowOf, encode, and_maskF000]
  decide

theorem skp (x : Nibble) : Statement (.skp x) := by
  simp [Statement, OpcodeRow.selects, rowOf, encode, and_maskF0FF]
  decide +revert

theorem sknp (x : Nibble) : Statement (.sknp x) := by
  simp [Statement, OpcodeRow.selects, rowOf, encode, and_maskF0FF]
  decide +revert

theorem ldVxDt (x : Nibble) : Statement (.ldVxDt x) := by
  simp [Statement, OpcodeRow.selects, rowOf, encode, and_maskF0FF]
  decide +revert

theorem ldVxK (x : Nibble) : Statement (.ldVxK x) := by
  simp [Statement, OpcodeRow.selects, rowOf, encode, and_maskF0FF]
  decide +revert

theorem ldDtVx (x : Nibble) : Statement (.ldDtVx x) := by
  simp [Statement, OpcodeRow.selects, rowOf, encode, and_maskF0FF]
  decide +revert

theorem ldStVx (x : Nibble) : Statement (.ldStVx x) := by
  simp [Statement, OpcodeRow.selects, rowOf, encode, and_maskF0FF]
  decide +revert

theorem addI (x : Nibble) : Statement (.addI x) := by
  simp [Statement, OpcodeRow.selects, rowOf, encode, and_maskF0FF]
  decide +revert

theorem ldF (x : Nibble) : Statement (.ldF x) := by
  simp [Statement, OpcodeRow.selects, rowOf, encode, and_maskF0FF]
  decide +revert

theorem ldB (x : Nibble) : Statement (.ldB x) := by
  simp [Statement, OpcodeRow.selects, rowOf, encode, and_maskF0FF]
  decide +revert

theorem ldMemVx (x : Nibble) : Statement (.ldMemVx x) := by
  simp [Statement, OpcodeRow.selects, rowOf, encode, and_maskF0FF]
  decide +revert

theorem ldVxMem (x : Nibble) : Statement (.ldVxMem x) := by
  simp [Statement, OpcodeRow.selects, rowOf, encode, and_maskF0FF]
  decide +revert

end Sys2Proof.Laws.EncodesInRow
end

