-- ==== Sys2Proof/Tests/Slice0.lean ====
section
/-! SUPPORT. The model's own tests. Expected values come from spec/95_test_vectors.md (the vector's name stands
before each test) or, for the words of the decode tests, from the patterns of 30_encoding.md R54. The
last part shows, for each statement with hypotheses, a state and operands that meet them. -/

namespace Sys2Proof.Tests

open Sys2Proof.Machine Sys2Proof.Claims

/-! ### Decoding: one word for each constructor, written from its pattern; each meets its row's mask -/

theorem test_decode_cls : decodeWord 0x00E0#16 = .ok .cls ∧ 0x00E0#16 &&& 0xFFFF#16 = 0x00E0#16 := by decide
theorem test_decode_ret : decodeWord 0x00EE#16 = .ok .ret ∧ 0x00EE#16 &&& 0xFFFF#16 = 0x00EE#16 := by decide
theorem test_decode_jp : decodeWord 0x1228#16 = .ok (.jp 0x228#12) ∧ 0x1228#16 &&& 0xF000#16 = 0x1000#16 := by decide
theorem test_decode_call : decodeWord 0x2FF1#16 = .ok (.call 0xFF1#12) ∧ 0x2FF1#16 &&& 0xF000#16 = 0x2000#16 := by decide
theorem test_decode_seImm : decodeWord 0x332A#16 = .ok (.seImm 3#4 0x2A#8) ∧ 0x332A#16 &&& 0xF000#16 = 0x3000#16 := by decide
theorem test_decode_sneImm : decodeWord 0x432A#16 = .ok (.sneImm 3#4 0x2A#8) ∧ 0x432A#16 &&& 0xF000#16 = 0x4000#16 := by decide
theorem test_decode_seReg : decodeWord 0x5127#16 = .ok (.seReg 1#4 2#4) ∧ 0x5127#16 &&& 0xF000#16 = 0x5000#16 := by decide
theorem test_decode_ldImm : decodeWord 0x6A7B#16 = .ok (.ldImm 0xA#4 0x7B#8) ∧ 0x6A7B#16 &&& 0xF000#16 = 0x6000#16 := by decide
theorem test_decode_addImm : decodeWord 0x7102#16 = .ok (.addImm 1#4 0x02#8) ∧ 0x7102#16 &&& 0xF000#16 = 0x7000#16 := by decide
theorem test_decode_ldReg : decodeWord 0x8120#16 = .ok (.ldReg 1#4 2#4) ∧ 0x8120#16 &&& 0xF00F#16 = 0x8000#16 := by decide
theorem test_decode_orReg : decodeWord 0x8121#16 = .ok (.orReg 1#4 2#4) ∧ 0x8121#16 &&& 0xF00F#16 = 0x8001#16 := by decide
theorem test_decode_andReg : decodeWord 0x8122#16 = .ok (.andReg 1#4 2#4) ∧ 0x8122#16 &&& 0xF00F#16 = 0x8002#16 := by decide
theorem test_decode_xorReg : decodeWord 0x8123#16 = .ok (.xorReg 1#4 2#4) ∧ 0x8123#16 &&& 0xF00F#16 = 0x8003#16 := by decide
theorem test_decode_addReg : decodeWord 0x8124#16 = .ok (.addReg 1#4 2#4) ∧ 0x8124#16 &&& 0xF00F#16 = 0x8004#16 := by decide
theorem test_decode_sub : decodeWord 0x8125#16 = .ok (.sub 1#4 2#4) ∧ 0x8125#16 &&& 0xF00F#16 = 0x8005#16 := by decide
theorem test_decode_shr : decodeWord 0x8126#16 = .ok (.shr 1#4 2#4) ∧ 0x8126#16 &&& 0xF00F#16 = 0x8006#16 := by decide
theorem test_decode_subn : decodeWord 0x8127#16 = .ok (.subn 1#4 2#4) ∧ 0x8127#16 &&& 0xF00F#16 = 0x8007#16 := by decide
theorem test_decode_shl : decodeWord 0x812E#16 = .ok (.shl 1#4 2#4) ∧ 0x812E#16 &&& 0xF00F#16 = 0x800E#16 := by decide
theorem test_decode_sneReg : decodeWord 0x912F#16 = .ok (.sneReg 1#4 2#4) ∧ 0x912F#16 &&& 0xF000#16 = 0x9000#16 := by decide
theorem test_decode_ldI : decodeWord 0xA301#16 = .ok (.ldI 0x301#12) ∧ 0xA301#16 &&& 0xF000#16 = 0xA000#16 := by decide
theorem test_decode_jpV0 : decodeWord 0xB301#16 = .ok (.jpV0 0x301#12) ∧ 0xB301#16 &&& 0xF000#16 = 0xB000#16 := by decide
theorem test_decode_rnd : decodeWord 0xC30F#16 = .ok (.rnd 3#4 0x0F#8) ∧ 0xC30F#16 &&& 0xF000#16 = 0xC000#16 := by decide
theorem test_decode_drw : decodeWord 0xD125#16 = .ok (.drw 1#4 2#4 5#4) ∧ 0xD125#16 &&& 0xF000#16 = 0xD000#16 := by decide
theorem test_decode_skp : decodeWord 0xE49E#16 = .ok (.skp 4#4) ∧ 0xE49E#16 &&& 0xF0FF#16 = 0xE09E#16 := by decide
theorem test_decode_sknp : decodeWord 0xE4A1#16 = .ok (.sknp 4#4) ∧ 0xE4A1#16 &&& 0xF0FF#16 = 0xE0A1#16 := by decide
theorem test_decode_ldVxDt : decodeWord 0xF307#16 = .ok (.ldVxDt 3#4) ∧ 0xF307#16 &&& 0xF0FF#16 = 0xF007#16 := by decide
theorem test_decode_ldVxK : decodeWord 0xF10A#16 = .ok (.ldVxK 1#4) ∧ 0xF10A#16 &&& 0xF0FF#16 = 0xF00A#16 := by decide
theorem test_decode_ldDtVx : decodeWord 0xF215#16 = .ok (.ldDtVx 2#4) ∧ 0xF215#16 &&& 0xF0FF#16 = 0xF015#16 := by decide
theorem test_decode_ldStVx : decodeWord 0xF218#16 = .ok (.ldStVx 2#4) ∧ 0xF218#16 &&& 0xF0FF#16 = 0xF018#16 := by decide
theorem test_decode_addI : decodeWord 0xF21E#16 = .ok (.addI 2#4) ∧ 0xF21E#16 &&& 0xF0FF#16 = 0xF01E#16 := by decide
theorem test_decode_ldF : decodeWord 0xF229#16 = .ok (.ldF 2#4) ∧ 0xF229#16 &&& 0xF0FF#16 = 0xF029#16 := by decide
theorem test_decode_ldB : decodeWord 0xF533#16 = .ok (.ldB 5#4) ∧ 0xF533#16 &&& 0xF0FF#16 = 0xF033#16 := by decide
theorem test_decode_ldMemVx : decodeWord 0xF155#16 = .ok (.ldMemVx 1#4) ∧ 0xF155#16 &&& 0xF0FF#16 = 0xF055#16 := by decide
theorem test_decode_ldVxMem : decodeWord 0xF265#16 = .ok (.ldVxMem 2#4) ∧ 0xF265#16 &&& 0xF0FF#16 = 0xF065#16 := by decide

/-- V-U1 to V-U7: unknown words, each by the name of its family. -/
theorem test_decode_unknown :
    decodeWord 0x8008#16 = .error .family8 ∧ decodeWord 0x0000#16 = .error .family0 ∧
    decodeWord 0x0123#16 = .error .family0 ∧ decodeWord 0x00E1#16 = .error .family0 ∧
    decodeWord 0xE000#16 = .error .familyE ∧ decodeWord 0xF000#16 = .error .familyF ∧
    decodeWord 0xFFFF#16 = .error .familyF := by decide

/-- A byte list: two bytes are consumed, big-endian; fewer are rejected by name. -/
theorem test_decode_bytes :
    decode [0xD1#8, 0x25#8, 0xAA#8] = .ok (.drw 1#4 2#4 5#4, [0xAA#8]) ∧
    decode [0xD1#8] = .error .truncated ∧ decode [] = .error .truncated ∧
    decodeTableWord 16 0xD125 = some (.drw 1#4 2#4 5#4) ∧ decodeTableWord 16 0x8008 = none := by decide

/-! ### Well-formedness: an ill-formed term for each check -/

/-- A ROM of 3585 bytes does not fit, one of 3584 does. -/
theorem test_wellFormed_rom :
    HostUnit.wellFormed (.loadProgram (List.replicate 3585 0#8)) = false ∧
    HostUnit.wellFormed (.loadProgram (List.replicate 3584 0#8)) = true := by
  simp only [HostUnit.wellFormed, List.length_replicate]
  decide

/-- A second load, and a load after a step, are out of order; a load after a reset is in order. -/
theorem test_wellFormed_order :
    scheduleWellFormed true [.loadProgram [], .loadProgram []] = false ∧
    scheduleWellFormed true [.step, .loadProgram []] = false ∧
    scheduleWellFormed true [.loadProgram [], .step, .initCore, .setKeys 0#16, .loadProgram [], .step] = true := by
  decide

/-- A schedule is ill formed when one of its ROMs does not fit. -/
theorem test_wellFormed_schedule_rom :
    scheduleWellFormed true [.loadProgram (List.replicate 3585 0#8)] = false := by
  simp only [scheduleWellFormed, HostUnit.wellFormed, List.length_replicate]
  decide

/-- The canonical form of memory: a falling list, an address of 4096, a cell equal to its reset contents. -/
theorem test_wellFormed_memory :
    Memory.wf defaultFont [(0x301, 1#8), (0x300, 1#8)] = false ∧ Memory.wf defaultFont [(0x1000, 1#8)] = false ∧
    Memory.wf defaultFont [(0x300, 0#8)] = false ∧ Memory.wf defaultFont [(0x000, 0xF0#8)] = false ∧
    Memory.wf defaultFont [(0x000, 0#8), (0x300, 1#8)] = true ∧
    Memory.wf (Vector.replicate 80 0#8) [(0x000, 0xF0#8)] = true := by decide

/-! ### One step on a small state -/

/-- The state a step with the given word at pc leaves, none if it does not answer a next state. -/
def after (op : Word) (s : State) : Option State :=
  match step (placeWord op s) with
  | .next t => some t
  | .fault _ => none
  | .refused _ => none

/-- The state a unit of the host leaves. -/
def unit (u : HostUnit) (s : State) : Option State :=
  match step { s with schedule := [u] } with
  | .next t => some t
  | .fault _ => none
  | .refused _ => none

/-- Reset with registers set. -/
def regs (rs : List (Nibble × Byte)) : State := rs.foldl (fun s r => s.setReg r.1 r.2) State.reset

-- V-D1
theorem test_cls :
    (after 0x00E0#16 (State.reset.setFb (fbFlip (fbFlip fbBlank 0) 2047))).map
      (fun t => (t.fb, t.drawFlag, t.pc)) = some (fbBlank, true, 0x202#16) := by decide

-- V-D6: the flag is the OR, the collision is not on the last pixel
theorem test_drw_collision_not_last :
    (after 0xD011#16 (((State.reset.setIndex 0x300#16).memStore 0x300 [0xC0#8]).setFb (fbFlip fbBlank 0))).map
      (fun t => (t.pixel 0, t.pixel 1, t.reg 0xF#4, t.drawFlag)) = some (false, true, 1#8, true) := by decide

-- V-D13: the sprite fetch wraps to the font, the rows are 64 apart
theorem test_drw_fetch_wraps :
    (after 0xD012#16 ((State.reset.setIndex 0x0FFF#16).memStore 0xFFF [0x80#8])).map
      (fun t => (t.fb, t.reg 0xF#4, t.i)) =
    some ((fbBlank.set 0 0x1#64).set 1 0xF#64, 0#8, 0x0FFF#16) := by decide

-- V-C3
theorem test_ret_wraps :
    (after 0x00EE#16 { State.reset with pc := 0x210#16, sp := 1, stack := State.reset.stack.set 0 0xFFFE#16 }).map
      (fun t => (t.sp, t.pc, t.stack[0])) = some (0, 0x000#16, 0xFFFE#16) := by decide

-- V-C2
theorem test_ret_underflow :
    (after 0x00EE#16 State.reset).map (fun t => (t.fault, t.pc)) =
      some (⟨.stackUnderflow, 0x200#16, 0x00EE#16⟩, 0x200#16) := by decide

-- V-C5
theorem test_jp_odd :
    (after 0x1201#16 (State.reset.setPc 0x20A#16)).map (fun t => t.pc) = some 0x201#16 := by decide

-- V-C8
theorem test_call_last_entry :
    (after 0x2210#16 { State.reset with pc := 0x204#16, sp := 15 }).map (fun t => (t.sp, t.stack[15], t.pc)) =
      some (16, 0x204#16, 0x210#16) := by decide

-- V-C9
theorem test_call_overflow :
    (after 0x2210#16 { State.reset with pc := 0x204#16, sp := 16 }).map (fun t => (t.fault, t.sp, t.pc)) =
      some (⟨.stackOverflow, 0x204#16, 0x2210#16⟩, 16, 0x204#16) := by decide

-- V-C10, V-C11
theorem test_seImm :
    (after 0x332A#16 (regs [(3#4, 0x2A#8)])).map (fun t => t.pc) = some 0x204#16 ∧
    (after 0x332A#16 (regs [(3#4, 0x2B#8)])).map (fun t => t.pc) = some 0x202#16 := by decide

-- V-C12, V-C13
theorem test_sneImm :
    (after 0x432A#16 (regs [(3#4, 0x2A#8)])).map (fun t => t.pc) = some 0x202#16 ∧
    (after 0x432A#16 (regs [(3#4, 0x2B#8)])).map (fun t => t.pc) = some 0x204#16 := by decide

-- V-C15, V-C16
theorem test_seReg :
    (after 0x5120#16 (regs [(1#4, 7#8), (2#4, 8#8)])).map (fun t => t.pc) = some 0x202#16 ∧
    (after 0x5127#16 (regs [(1#4, 7#8), (2#4, 7#8)])).map (fun t => t.pc) = some 0x204#16 := by decide

-- V-C17, V-C18
theorem test_sneReg :
    (after 0x9120#16 (regs [(1#4, 7#8), (2#4, 8#8)])).map (fun t => t.pc) = some 0x204#16 ∧
    (after 0x912F#16 (regs [(1#4, 7#8), (2#4, 7#8)])).map (fun t => t.pc) = some 0x202#16 := by decide

-- V-C21
theorem test_jpV0_past_memory :
    (after 0xBFFF#16 (regs [(0#4, 0xFF#8)])).map (fun t => t.pc) = some 0x10FE#16 := by decide

-- V-C22: the fetch at 0xFFFE reads 0xFFE and 0xFFF, pc wraps
theorem test_pc_wraps :
    (after 0x6000#16 (State.reset.setPc 0xFFFE#16)).map (fun t => t.pc) = some 0x000#16 := by decide

-- V-A1
theorem test_ldImm :
    (after 0x6A7B#16 State.reset).map (fun t => (t.reg 0xA#4, t.pc)) = some (0x7B#8, 0x202#16) := by decide

-- V-A2, V-A3
theorem test_addImm :
    (after 0x7102#16 (regs [(1#4, 0xFF#8), (0xF#4, 5#8)])).map (fun t => (t.reg 1#4, t.reg 0xF#4)) =
      some (1#8, 5#8) ∧
    (after 0x7F03#16 (regs [(0xF#4, 0xFE#8)])).map (fun t => t.reg 0xF#4) = some 1#8 := by decide

-- V-A4
theorem test_ldReg :
    (after 0x8120#16 (regs [(2#4, 0x33#8)])).map (fun t => (t.reg 1#4, t.reg 2#4)) = some (0x33#8, 0x33#8) := by
  decide

-- V-A5
theorem test_orReg :
    (after 0x8121#16 (regs [(1#4, 0x0F#8), (2#4, 0xF0#8), (0xF#4, 1#8)])).map (fun t => (t.reg 1#4, t.reg 0xF#4)) =
      some (0xFF#8, 1#8) := by decide

-- V-A6
theorem test_andReg :
    (after 0x8122#16 (regs [(1#4, 0x3C#8), (2#4, 0x0F#8), (0xF#4, 1#8)])).map (fun t => (t.reg 1#4, t.reg 0xF#4)) =
      some (0x0C#8, 1#8) := by decide

-- V-A7
theorem test_xorReg :
    (after 0x8123#16 (regs [(1#4, 0x3C#8), (2#4, 0x0F#8), (0xF#4, 1#8)])).map (fun t => (t.reg 1#4, t.reg 0xF#4)) =
      some (0x33#8, 1#8) := by decide

-- V-A10, V-A11
theorem test_addReg_carry_edge :
    (after 0x8124#16 (regs [(1#4, 0xFF#8), (0xF#4, 1#8)])).map (fun t => (t.reg 1#4, t.reg 0xF#4)) =
      some (0xFF#8, 0#8) ∧
    (after 0x8124#16 (regs [(1#4, 0xFF#8), (2#4, 1#8)])).map (fun t => (t.reg 1#4, t.reg 0xF#4)) =
      some (0#8, 1#8) := by decide

-- V-A12, V-A13
theorem test_addReg_alias :
    (after 0x8F24#16 (regs [(2#4, 0x80#8), (0xF#4, 0x80#8)])).map (fun t => t.reg 0xF#4) = some 1#8 ∧
    (after 0x81F4#16 (regs [(1#4, 0x10#8), (0xF#4, 1#8)])).map (fun t => (t.reg 1#4, t.reg 0xF#4)) =
      some (0x11#8, 0#8) := by decide

-- V-A15, V-A16
theorem test_sub :
    (after 0x8125#16 (regs [(1#4, 0x20#8), (2#4, 0x20#8), (0xF#4, 1#8)])).map (fun t => (t.reg 1#4, t.reg 0xF#4)) =
      some (0#8, 0#8) ∧
    (after 0x8125#16 (regs [(1#4, 1#8), (2#4, 2#8)])).map (fun t => (t.reg 1#4, t.reg 0xF#4)) =
      some (0xFF#8, 0#8) := by decide

-- V-A19, V-A20
theorem test_shr :
    (after 0x8126#16 (regs [(1#4, 0xAA#8), (2#4, 4#8), (0xF#4, 1#8)])).map
      (fun t => (t.reg 1#4, t.reg 2#4, t.reg 0xF#4)) = some (2#8, 2#8, 0#8) ∧
    (after 0x8F26#16 (regs [(2#4, 1#8)])).map (fun t => (t.reg 2#4, t.reg 0xF#4)) = some (0#8, 1#8) := by decide

-- V-A21, V-A22
theorem test_subn :
    (after 0x8127#16 (regs [(1#4, 0x20#8), (2#4, 0x50#8)])).map (fun t => (t.reg 1#4, t.reg 0xF#4)) =
      some (0x30#8, 1#8) ∧
    (after 0x8127#16 (regs [(1#4, 0x20#8), (2#4, 0x20#8), (0xF#4, 1#8)])).map (fun t => (t.reg 1#4, t.reg 0xF#4)) =
      some (0#8, 0#8) := by decide

-- V-A24, V-A26
theorem test_shl :
    (after 0x812E#16 (regs [(2#4, 0x81#8)])).map (fun t => (t.reg 1#4, t.reg 2#4, t.reg 0xF#4)) =
      some (2#8, 2#8, 1#8) ∧
    (after 0x8F1E#16 (regs [(1#4, 0x40#8)])).map (fun t => (t.reg 1#4, t.reg 0xF#4)) = some (0x80#8, 0#8) := by
  decide

-- V-A27: whatever the draw, if it is 0xA7
theorem test_rnd (h : Config.rnd 0 = 0xA7#8) :
    ∃ t, exec (.rnd 3#4 0x0F#8) State.reset = .next t ∧ t.reg 3#4 = 0x07#8 := by
  refine ⟨_, rfl, ?_⟩
  show (((State.reset.setReg 3#4 (Config.rnd 0 &&& 0x0F#8)).drawn).advance).reg 3#4 = 0x07#8
  rw [h]
  decide

-- V-A28: mask 0 gives 0 for every draw
theorem test_rnd_mask_zero (s : State) : ∃ t, exec (.rnd 3#4 0#8) s = .next t ∧ t.reg 3#4 = 0#8 :=
  ⟨_, rfl, by simp⟩

-- V-I1
theorem test_ldI : (after 0xA300#16 State.reset).map (fun t => (t.i, t.pc)) = some (0x300#16, 0x202#16) := by decide

-- V-I3, V-I4
theorem test_addI_range :
    (after 0xF21E#16 ((regs [(2#4, 1#8), (0xF#4, 1#8)]).setIndex 0x0FFE#16)).map (fun t => (t.i, t.reg 0xF#4)) =
      some (0x0FFF#16, 0#8) ∧
    (after 0xF21E#16 (State.reset.setIndex 0x1000#16)).map (fun t => (t.i, t.reg 0xF#4)) =
      some (0x1000#16, 1#8) := by decide

-- V-I5, V-I6
theorem test_addI_wrap_alias :
    (after 0xF21E#16 ((regs [(2#4, 1#8)]).setIndex 0xFFFF#16)).map (fun t => (t.i, t.reg 0xF#4)) =
      some (0x0000#16, 1#8) ∧
    (after 0xFF1E#16 ((regs [(0xF#4, 0x10#8)]).setIndex 0x0100#16)).map (fun t => (t.i, t.reg 0xF#4)) =
      some (0x0110#16, 0#8) := by decide

-- V-I8, V-I10
theorem test_ldF :
    (after 0xF229#16 (regs [(2#4, 0x0F#8)])).map (fun t => t.i) = some 0x004B#16 ∧
    (after 0xF229#16 (regs [(2#4, 0xFF#8)])).map (fun t => t.i) = some 0x04FB#16 := by decide

-- V-I13
theorem test_ldB :
    (after 0xF533#16 ((regs [(5#4, 0xFF#8)]).setIndex 0x300#16)).map
      (fun t => (t.memRead 0x300, t.memRead 0x301, t.memRead 0x302, t.i)) = some (2#8, 5#8, 5#8, 0x300#16) := by
  decide

-- V-I14
theorem test_ldB_wraps :
    (after 0xF533#16 ((regs [(5#4, 0x7B#8)]).setIndex 0x0FFF#16)).map
      (fun t => (t.memRead 0xFFF, t.memRead 0x000, t.memRead 0x001, t.memRead 0x002)) =
    some (1#8, 2#8, 3#8, 0x90#8) := by decide

-- V-I17
theorem test_ldMemVx_wraps :
    (after 0xF255#16 ((regs [(0#4, 1#8), (1#4, 2#8), (2#4, 3#8)]).setIndex 0x0FFE#16)).map
      (fun t => (t.memRead 0xFFE, t.memRead 0xFFF, t.memRead 0x000, t.i)) =
    some (1#8, 2#8, 3#8, 0x1001#16) := by decide

-- V-I18, with a register above x that stays
theorem test_ldVxMem :
    (after 0xF265#16 (((regs [(3#4, 0x77#8)]).setIndex 0x300#16).memStore 0x300 [1#8, 2#8, 3#8, 4#8])).map
      (fun t => (t.reg 0#4, t.reg 1#4, t.reg 2#4, t.reg 3#4, t.i)) =
    some (1#8, 2#8, 3#8, 0x77#8, 0x303#16) := by decide

-- V-K1, V-K2
theorem test_skp :
    (after 0xE49E#16 (setKeys 0x0400#16 (regs [(4#4, 0x0A#8)]))).map (fun t => t.pc) = some 0x204#16 ∧
    (after 0xE49E#16 (regs [(4#4, 0x0A#8)])).map (fun t => t.pc) = some 0x202#16 := by decide

-- V-K3
theorem test_skp_fault :
    (after 0xE49E#16 (regs [(4#4, 0x10#8)])).map (fun t => (t.fault, t.pc)) =
      some (⟨.keyFault, 0x200#16, 0xE49E#16⟩, 0x200#16) := by decide

-- V-K4, V-K5
theorem test_sknp :
    (after 0xE4A1#16 (regs [(4#4, 0x0A#8)])).map (fun t => t.pc) = some 0x204#16 ∧
    (after 0xE4A1#16 (setKeys 0x0400#16 (regs [(4#4, 0x0A#8)]))).map (fun t => t.pc) = some 0x202#16 := by decide

-- V-K6
theorem test_sknp_fault :
    (after 0xE4A1#16 (regs [(4#4, 0xFF#8)])).map (fun t => (t.fault, t.pc)) =
      some (⟨.keyFault, 0x200#16, 0xE4A1#16⟩, 0x200#16) := by decide

-- V-K7
theorem test_ldVxDt :
    (after 0xF307#16 (State.reset.setDt 60#8)).map (fun t => (t.reg 3#4, t.dt)) = some (0x3C#8, 60#8) := by decide

-- V-K8
theorem test_ldVxK_waits :
    (after 0xF10A#16 (State.reset.setPc 0x208#16)).map (fun t => (t.waitKey, t.pc, t.reg 1#4)) =
      some (true, 0x208#16, 0#8) := by decide

-- V-K11: one key down leaves no choice to the free value
theorem test_ldVxK_one_key :
    ∃ t, exec (.ldVxK 0xF#4) (setKeys 0x1000#16 (State.reset.setPc 0x208#16)) = .next t ∧
      t.reg 0xF#4 = 0x0C#8 ∧ t.pc = 0x20A#16 := by
  refine ⟨((State.reset.setPc 0x20A#16).setReg 0xF#4 0x0C#8).drawn |> setKeys 0x1000#16, ?_, by decide, by decide⟩
  have hk : keysDown 0x1000#16 = [12] := by decide
  simp only [exec, execLdVxK, setKeys, State.setPc, hk, pickKey, List.length_nil, Nat.zero_add, Nat.mod_one]
  rfl

-- V-K12
theorem test_ldDtVx : (after 0xF215#16 (regs [(2#4, 0x3C#8)])).map (fun t => (t.dt, t.st)) = some (60#8, 0#8) := by
  decide

-- V-K14: no Sound
theorem test_ldStVx :
    (after 0xF218#16 (State.reset.setSt 1#8)).map (fun t => (t.st, t.events)) = some (0#8, []) := by decide

-- V-T1, V-T2
theorem test_tickTimer :
    (unit .tickTimer ((State.reset.setDt 60#8).setSt 2#8)).map (fun t => (t.dt, t.st, t.events)) =
      some (59#8, 1#8, []) ∧
    (unit .tickTimer (State.reset.setSt 1#8)).map (fun t => (t.dt, t.st, t.events)) =
      some (0#8, 0#8, [.sound]) := by decide

-- V-T5: the timers run while halted
theorem test_tickTimer_halted :
    (unit .tickTimer ((State.reset.setDt 5#8).takeFault .stackOverflow 0x2200#16)).map (fun t => t.dt) =
      some 4#8 := by decide

-- V-U8
theorem test_unknown_odd_pc :
    (after 0x8FFF#16 (State.reset.setPc 0x201#16)).map (fun t => (t.events, t.pc)) =
      some ([.diag 0x201#16 0x8FFF#16], 0x203#16) := by decide

-- V-U9
theorem test_halted_step :
    step ({ (regs [(1#4, 1#8)]).memStore 0x200 [0x71#8, 0x01#8] with loadOpen := false }.takeFault
      .stackUnderflow 0x00EE#16) =
    .next ({ (regs [(1#4, 1#8)]).memStore 0x200 [0x71#8, 0x01#8] with loadOpen := false }.takeFault
      .stackUnderflow 0x00EE#16) := rfl

-- R21, R120: with another FONT, memory starts with that one, a reset keeps it, a store over it is undone
theorem test_font_parameter :
    (State.resetWith (Vector.replicate 80 0x5A#8)).memRead 0x04F = 0x5A#8 ∧
    (State.resetWith (Vector.replicate 80 0x5A#8)).memRead 0x050 = 0x00#8 ∧
    (unit .initCore ((State.resetWith (Vector.replicate 80 0x5A#8)).memStore 0x04F [1#8])).map
      (fun t => t.memRead 0x04F) = some 0x5A#8 := by decide

-- R121, R124: a load goes to 0x200 and is allowed once; R120: reset brings the font back
theorem test_load_then_reset :
    (unit (.loadProgram [0x12#8, 0x34#8]) State.reset).map (fun t => (t.memRead 0x200, t.memRead 0x201, t.loadOpen)) =
      some (0x12#8, 0x34#8, false) ∧
    unit (.loadProgram []) { State.reset with loadOpen := false } = none ∧
    (unit .initCore (State.reset.memStore 0 [0#8])).map (fun t => (t.memRead 0, t.mem)) = some (0xF0#8, []) := by
  decide

/-! ### Witnesses: states and operands that meet the hypotheses of the statements -/

/-- A running core with an instruction at pc, nothing requested (StepRunsDecodedInstruction). -/
def atLdImm : State := placeWord 0x6A7B#16 State.reset

theorem witness_step_runs :
    nextUnit atLdImm = .step ∧ atLdImm.fault.cause = .noFault ∧
    decode [atLdImm.memRead atLdImm.pc.toNat, atLdImm.memRead (atLdImm.pc.toNat + 1)] =
      .ok (.ldImm 0xA#4 0x7B#8, []) := by decide

theorem witness_unknown :
    nextUnit State.reset = .step ∧ State.reset.fault.cause = .noFault ∧
    decodeWord (opAtPc State.reset) = .error .family0 := by decide

theorem witness_halted :
    (State.reset.takeFault .keyFault 0xE09E#16).fault.cause ≠ .noFault ∧
    (∀ j < 3, unitAt { State.reset.takeFault .keyFault 0xE09E#16 with schedule := [.step] } j = .step) := by decide

/-- EncodeInvertsDecode, in a family whose low nibble is ignored and in one where it is not. -/
theorem witness_encode_inverts_decode :
    decodeWord 0x5127#16 = .ok (.seReg 1#4 2#4) ∧ encode (.seReg 1#4 2#4) = 0x5120#16 ∧
    decodeWord 0x8127#16 = .ok (.subn 1#4 2#4) ∧ encode (.subn 1#4 2#4) = 0x8127#16 := by decide

/-- WordSelectsItsRow: a word that selects a row of the table. -/
theorem witness_row :
    (⟨0xF0FF#16, 0xF065#16⟩ : OpcodeRow) ∈ opcodeTable ∧ 0xF265#16 &&& 0xF0FF#16 = 0xF065#16 := by decide

/-- StoredBytesAreFetchedNext: FX55 with I at the next instruction, the two bytes at the ends of V0 to V1. -/
theorem witness_stored_bytes :
    0 + 1 ≤ (1#4 : Nibble).toNat ∧
    ((State.reset.setIndex 0x202#16).pc + 2#16).toNat % 4096 =
      ((State.reset.setIndex 0x202#16).i.toNat + 0) % 4096 := by decide

/-- CanonicalMemoryIsUnique: canonical memories that read the same (they are then one list). -/
theorem witness_canonical :
    Memory.wf defaultFont [(0x000, 0#8), (0xFFF, 1#8)] = true ∧
    ∀ a < 4096, Memory.read defaultFont [(0x000, 0#8), (0xFFF, 1#8)] a =
      Memory.read defaultFont [(0x000, 0#8), (0xFFF, 1#8)] a :=
  ⟨by decide, fun _ _ => rfl⟩

/-- A one-row sprite 0x80 at I = 0x300. -/
def sprite : State := (State.reset.setIndex 0x300#16).memStore 0x300 [0x80#8]

/-- DrwXorsSpriteAndFlagsCollision: a pixel that is hit (the last, by wrapping) and one that is not. -/
theorem witness_sprite_hits :
    SpriteHits sprite 0x3F#8 0x1F#8 1 2047 ∧ ¬ SpriteHits sprite 0x3F#8 0x1F#8 1 0 := by
  constructor
  · exact ⟨0, by decide, 0, by decide, by decide, by decide⟩
  · rintro ⟨r, hr, c, hc, hb, hp⟩
    interval_cases r
    simp only [show (0x3F#8 : Byte).toNat = 63 by decide, show (0x1F#8 : Byte).toNat = 31 by decide] at hp
    obtain rfl : c = 1 := by omega
    exact absurd hb (by decide)

/-- The collision clauses: the pixel hit is set before, or not. -/
theorem witness_collision :
    SpriteHits sprite 0#8 0#8 1 0 ∧ sprite.pixel 0 = false ∧
    SpriteHits (sprite.setFb (fbFlip fbBlank 0)) 0#8 0#8 1 0 ∧ (sprite.setFb (fbFlip fbBlank 0)).pixel 0 = true :=
  ⟨⟨0, by decide, 0, by decide, by decide, by decide⟩, by decide,
   ⟨0, by decide, 0, by decide, by decide, by decide⟩, by decide⟩

/-- DrawingTwiceRestoresTheScreen: coordinates that are not VF, a blank framebuffer. -/
theorem witness_draw_twice :
    (0#4 : Nibble) ≠ 0xF#4 ∧ (1#4 : Nibble) ≠ 0xF#4 ∧ (∀ p < 2048, sprite.pixel p = false) :=
  ⟨by decide, by decide, fun p _ => by simp [sprite, State.pixel, fbPixel, State.reset, State.resetWith]⟩

/-- RetReturnsAfterTheCall: one entry, sixteen entries, none. -/
theorem witness_ret :
    ({ State.reset with sp := 1 } : State).sp.val = (0 : Fin 16).val + 1 ∧
    ({ State.reset with sp := 16 } : State).sp.val = (15 : Fin 16).val + 1 ∧ State.reset.sp.val = 0 := by decide

/-- CallPushesItsOwnAddress: an empty stack, one slot left, none left. -/
theorem witness_call :
    State.reset.sp.val = (0 : Fin 16).val ∧ ({ State.reset with sp := 15 } : State).sp.val = (15 : Fin 16).val ∧
    ({ State.reset with sp := 16 } : State).sp.val = 16 ∧ decodeWord 0x2222#16 = .ok (.call 0x222#12) := by decide

/-- The statements with a hypothesis "x is not VF" (7XNN, 8XY4, 8XY5, 8XY7) and the clauses over the other
registers. -/
theorem witness_not_vf : (0xE#4 : Nibble) ≠ 0xF#4 ∧ (0#4 : Nibble) ≠ 0xE#4 := by decide

/-- FlagInstructionsLeaveVfZeroOrOne. -/
theorem witness_flag_instruction :
    (∃ x y n, Instr.addReg 1#4 2#4 = .addReg x y ∨ Instr.addReg 1#4 2#4 = .sub x y ∨
      Instr.addReg 1#4 2#4 = .shr x y ∨ Instr.addReg 1#4 2#4 = .subn x y ∨ Instr.addReg 1#4 2#4 = .shl x y ∨
      Instr.addReg 1#4 2#4 = .drw x y n ∨ Instr.addReg 1#4 2#4 = .addI x) ∧
    ∃ t, exec (.addReg 1#4 2#4) State.reset = .next t :=
  ⟨⟨1#4, 2#4, 0#4, .inl rfl⟩, _, rfl⟩

/-- OtherInstructionsKeepVf and SequentialInstructionsAddTwo: 6ENN is one of them. -/
theorem witness_plain_instruction :
    (∃ t, exec (.ldImm 0xE#4 1#8) State.reset = .next t) ∧
    (∀ x y n, Instr.ldImm 0xE#4 1#8 ≠ .addReg x y ∧ Instr.ldImm 0xE#4 1#8 ≠ .sub x y ∧
      Instr.ldImm 0xE#4 1#8 ≠ .shr x y ∧ Instr.ldImm 0xE#4 1#8 ≠ .subn x y ∧ Instr.ldImm 0xE#4 1#8 ≠ .shl x y ∧
      Instr.ldImm 0xE#4 1#8 ≠ .drw x y n ∧ Instr.ldImm 0xE#4 1#8 ≠ .addI x) ∧
    (∀ y nn, Instr.ldImm 0xE#4 1#8 ≠ .ldImm 0xF#4 nn ∧ Instr.ldImm 0xE#4 1#8 ≠ .addImm 0xF#4 nn ∧
      Instr.ldImm 0xE#4 1#8 ≠ .rnd 0xF#4 nn ∧ Instr.ldImm 0xE#4 1#8 ≠ .ldReg 0xF#4 y ∧
      Instr.ldImm 0xE#4 1#8 ≠ .orReg 0xF#4 y ∧ Instr.ldImm 0xE#4 1#8 ≠ .andReg 0xF#4 y ∧
      Instr.ldImm 0xE#4 1#8 ≠ .xorReg 0xF#4 y) ∧
    Instr.ldImm 0xE#4 1#8 ≠ .ldVxDt 0xF#4 ∧ Instr.ldImm 0xE#4 1#8 ≠ .ldVxK 0xF#4 ∧
    Instr.ldImm 0xE#4 1#8 ≠ .ldVxMem 0xF#4 ∧
    (∀ nnn, Instr.ldImm 0xE#4 1#8 ≠ .jp nnn ∧ Instr.ldImm 0xE#4 1#8 ≠ .call nnn ∧
      Instr.ldImm 0xE#4 1#8 ≠ .jpV0 nnn ∧ Instr.ldImm 0xE#4 1#8 ≠ .ret) ∧
    (∀ x y nn, Instr.ldImm 0xE#4 1#8 ≠ .seImm x nn ∧ Instr.ldImm 0xE#4 1#8 ≠ .sneImm x nn ∧
      Instr.ldImm 0xE#4 1#8 ≠ .seReg x y ∧ Instr.ldImm 0xE#4 1#8 ≠ .sneReg x y ∧
      Instr.ldImm 0xE#4 1#8 ≠ .skp x ∧ Instr.ldImm 0xE#4 1#8 ≠ .sknp x) ∧
    (∀ x, Instr.ldImm 0xE#4 1#8 = .ldVxK x → ∃ k < 16, State.reset.key.getLsbD k = true) := by
  refine ⟨⟨_, rfl⟩, ?_, ?_, by decide, by decide, by decide, ?_, ?_, ?_⟩ <;> simp

/-- LdBStoresThreeDigits, LdMemStoresRegisters: an address outside the stored bytes, next to them. -/
theorem witness_outside_store :
    (∀ k < 3, 0x303 % 4096 ≠ indexed sprite k % 4096) ∧ (∀ k ≤ (2#4 : Nibble).toNat, 0x2FF % 4096 ≠ indexed sprite k % 4096) ∧
    (2#4 : Nibble).toNat ≤ (2#4 : Nibble).toNat := by decide

/-- StoreThenLoadRoundTrips: the state after the store with I set back. -/
theorem witness_round_trip :
    ∃ t, exec (.ldMemVx 3#4) sprite = .next t ∧ (t.setIndex sprite.i).i = sprite.i ∧
      MemoryKept t (t.setIndex sprite.i) := ⟨_, rfl, rfl, fun _ => rfl⟩

/-- KeySkips: key numbers 15 and 16. -/
theorem witness_key_skips :
    ((regs [(4#4, 15#8)]).reg 4#4).toNat ≤ 15 ∧ 15 < ((regs [(4#4, 16#8)]).reg 4#4).toNat ∧
    decodeWord 0xE49E#16 = .ok (.skp 4#4) ∧ decodeWord 0xE4A1#16 = .ok (.sknp 4#4) := by decide

/-- LdVxKWaitsForAKey: no key down, and key 15 down. -/
theorem witness_keys :
    (∀ k < 16, State.reset.key.getLsbD k = false) ∧
    (∃ k < 16, (setKeys 0x8000#16 State.reset).key.getLsbD k = true) :=
  ⟨by decide, 15, by decide, by decide⟩

/-- OnlyTheseConditionsFault, OnlyTheNamedInstructionsWrite: an instruction of a running core that completes. -/
theorem witness_exec_completes :
    State.reset.fault.cause = .noFault ∧ ∃ t, exec .ret State.reset = .next t := ⟨rfl, _, rfl⟩

/-- FaultIsPrecise: a step in which the core halts. -/
theorem witness_fault_step :
    nextUnit (placeWord 0x00EE#16 State.reset) = .step ∧
    (placeWord 0x00EE#16 State.reset).fault.cause = .noFault ∧
    (after 0x00EE#16 State.reset).map (fun t => t.fault.cause) = some .stackUnderflow := by decide

/-- A halted core that is reset: its fault record changes (OnlyResetClearsAFault). -/
theorem witness_reset_clears :
    (unit .initCore (State.reset.takeFault .keyFault 0xE09E#16)).map (fun t => t.fault.cause) = some .noFault := by
  decide

/-- One witness for each unit the statements about the host ask for, and for the unit a step serves. -/
theorem witness_units :
    nextUnit { State.reset with schedule := [.tickTimer] } = .tickTimer ∧
    nextUnit { State.reset with schedule := [.setKeys 3#16] } = .setKeys 3#16 ∧
    nextUnit { State.reset with schedule := [.clearDraw] } = .clearDraw ∧
    nextUnit { State.reset with schedule := [.initCore] } = .initCore ∧
    nextUnit { State.reset with schedule := [.loadProgram [1#8]] } = .loadProgram [1#8] ∧
    nextUnit { State.reset with schedule := [.step] } = .step := by decide

/-- SoundExactlyOnTheTickToZero, KeysAndDrawFlagAreTheHosts: units that do change what the statements are about. -/
theorem witness_host_changes :
    (unit (.setKeys 3#16) State.reset).map (fun t => t.key) = some 3#16 ∧
    (unit .clearDraw (State.reset.setFb fbBlank)).map (fun t => t.drawFlag) = some false ∧
    (State.reset.setFb fbBlank).drawFlag = true := by decide

/-- Reset with a load of n zero bytes requested. -/
def loading (n : Nat) : State := { State.reset with schedule := [.loadProgram (List.replicate n 0#8)] }

/-- LoadProgramCopiesTheRom at the largest size, OversizedRomIsALoadError at the smallest. -/
theorem witness_rom_sizes :
    nextUnit (loading 3584) = .loadProgram (List.replicate 3584 0#8) ∧ (loading 3584).loadOpen = true ∧
    (List.replicate 3584 (0#8 : Byte)).length ≤ 3584 ∧
    nextUnit (loading 3585) = .loadProgram (List.replicate 3585 0#8) ∧ (loading 3585).loadOpen = true ∧
    3584 < (List.replicate 3585 (0#8 : Byte)).length := by
  simp only [List.length_replicate]
  exact ⟨rfl, rfl, by decide, rfl, rfl, by decide⟩

/-- LoadOnlyOnceBeforeTheFirstStep, a state for each clause: a load asked for with the window closed; a step; a
load that succeeds; a reset that opens the window. -/
theorem witness_load_window :
    nextUnit { loading 1 with loadOpen := false } = .loadProgram [0#8] ∧
    (after 0x6000#16 State.reset).map (fun t => t.loadOpen) = some false ∧
    (unit (.loadProgram [0#8]) State.reset).map (fun t => t.loadOpen) = some false ∧
    (unit .initCore { State.reset with loadOpen := false }).map (fun t => t.loadOpen) = some true := by decide

/-- A core parked at 0x200 after a step. -/
def parkedCore : State := { placeWord 0x1200#16 State.reset with loadOpen := false }

theorem witness_parked :
    nextUnit parkedCore = .step ∧ parkedCore.fault.cause = .noFault ∧ parkedCore.waitKey = false ∧
    parkedCore.loadOpen = false ∧ opAtPc parkedCore = 0x1#4 ++ 0x200#12 ∧
    (0x200#12 : Addr12).toNat = parkedCore.pc.toNat ∧ parkedCore.parked = true := by decide

theorem witness_waiting :
    nextUnit (placeWord 0xF10A#16 State.reset) = .step ∧
    opAtPc (placeWord 0xF10A#16 State.reset) = 0xF#4 ++ 1#4 ++ 0x0A#8 ∧
    (∀ k < 16, (placeWord 0xF10A#16 State.reset).key.getLsbD k = false) ∧
    (placeWord 0xF10A#16 State.reset).waiting = true := by decide

/-- TheCoreNeverStops, EveryStepKeepsTheInvariant: reset with a program to load, a key and a step requested. -/
theorem witness_protocol :
    Inv { State.reset with schedule := [.loadProgram [0x12#8, 0x00#8], .setKeys 1#16, .step, .tickTimer] } ∧
    KeepsProtocol
      { State.reset with schedule := [.loadProgram [0x12#8, 0x00#8], .setKeys 1#16, .step, .tickTimer] } ∧
    ∃ t, step { State.reset with
      schedule := [.loadProgram [0x12#8, 0x00#8], .setKeys 1#16, .step, .tickTimer] } = .next t := by
  refine ⟨⟨by decide, fun _ => rfl, fun h => absurd rfl h, fun h => ?_, fun _ => rfl⟩, keepsProtocol_of_schedule rfl (by decide), _, rfl⟩
  cases h

/-- OneUnitAStep: a schedule of two units before the free sequence; and the one step of a core whose next unit is
the first of the free sequence, whichever it is, serves that unit. -/
theorem witness_stream :
    unitAt { State.reset with schedule := [.clearDraw, .step], stream := some 5 } 1 = .step ∧
    unitAt { State.reset with schedule := [.clearDraw, .step], stream := some 5 } 3 = Config.hostUnit 6 ∧
    step { State.reset with stream := some 5 } =
      serve (Config.hostUnit 5) { State.reset with stream := some 6 } := ⟨rfl, rfl, rfl⟩

/-- The invariant at a state that is not reset's: halted by an underflow. -/
theorem witness_invariant_halted :
    ∃ t, step ({ State.reset with mem := [(0x201, 0xEE#8)] } : State) = .next t ∧ t.fault.cause = .stackUnderflow ∧
      t.fault.op = t.fetch ∧ Memory.wf t.font t.mem = true := ⟨_, rfl, by decide, by decide, by decide⟩

/-- UnknownWords: a word of each clause, and one of none. -/
theorem witness_unknown_clauses :
    (0x0000#16 : Word).toNat / 4096 = 0x0 ∧ (0x8008#16 : Word).toNat % 16 ∈ [0x8, 0x9, 0xA, 0xB, 0xC, 0xD, 0xF] ∧
    (0xE000#16 : Word).toNat % 256 ∉ [0x9E, 0xA1] ∧ (0xF000#16 : Word).toNat / 4096 = 0xF := by decide

end Sys2Proof.Tests
end

section
/-! PROOFS. Words that decode, told by their encoding (spec 30_encoding.md R51, R54). -/

namespace Sys2Proof

/-! ### The word of a decoded instruction, family by family -/

theorem encode_of_decodeFamily0 {op : Word} {i : Instr} (h : decodeFamily0 op = .ok i) : encode i = op := by
  unfold decodeFamily0 at h
  split at h <;> cases h <;> rfl

theorem encode_of_decodeFamily8 {op : Word} {i : Instr} (hf : opFamily op = 0x8#4)
    (h : decodeFamily8 op = .ok i) : encode i = op := by
  have hop := word_eq_wordXYN op
  unfold decodeFamily8 at h
  split at h <;> cases h
  all_goals rename_i hn; rw [hf, hn] at hop; exact hop.symm

theorem encode_of_decodeFamilyE {op : Word} {i : Instr} (hf : opFamily op = 0xE#4)
    (h : decodeFamilyE op = .ok i) : encode i = op := by
  have hop := word_eq_wordXNN op
  unfold decodeFamilyE at h
  split at h <;> cases h
  all_goals rename_i hn; rw [hf, hn] at hop; exact hop.symm

theorem encode_of_decodeFamilyF {op : Word} {i : Instr} (hf : opFamily op = 0xF#4)
    (h : decodeFamilyF op = .ok i) : encode i = op := by
  have hop := word_eq_wordXNN op
  unfold decodeFamilyF at h
  split at h <;> cases h
  all_goals rename_i hn; rw [hf, hn] at hop; exact hop.symm

/-- Every bit of a word that decodes is decoded, but for the low nibble of 5XY0 and 9XY0 (R53). -/
theorem encode_of_decodeWord {op : Word} {i : Instr} (h : decodeWord op = .ok i) :
    encode i = op ∨ ∃ x y, i = .seReg x y ∨ i = .sneReg x y := by
  unfold decodeWord at h
  split at h
  case h_1 => exact .inl (encode_of_decodeFamily0 h)
  case h_9 hf => exact .inl (encode_of_decodeFamily8 hf h)
  case h_15 hf => exact .inl (encode_of_decodeFamilyE hf h)
  case h_16 =>
    -- the split says of each of the other 15 nibbles that the family is not that one
    have hf : opFamily op = 0xF#4 := by simp only [imp_false] at *; bv_omega
    exact .inl (encode_of_decodeFamilyF hf h)
  case h_6 => cases h; exact .inr ⟨_, _, .inl rfl⟩
  case h_10 => cases h; exact .inr ⟨_, _, .inr rfl⟩
  case h_14 hf =>
    cases h; left; conv_rhs => rw [word_eq_wordXYN op, hf]
    rfl
  case h_2 hf | h_3 hf | h_11 hf | h_12 hf =>
    cases h; left; conv_rhs => rw [word_eq_wordNNN op, hf]
    rfl
  case h_4 hf | h_5 hf | h_7 hf | h_8 hf | h_13 hf =>
    cases h; left; conv_rhs => rw [word_eq_wordXNN op, hf]
    rfl

/-- FX0A is one word for each x, and no other word decodes to it (R98). -/
theorem decodeWord_eq_ldVxK_iff (op : Word) (x : Nibble) :
    decodeWord op = .ok (.ldVxK x) ↔ op = 0xF#4 ++ x ++ 0x0A#8 := by
  constructor
  · intro h
    rcases encode_of_decodeWord h with he | ⟨y, z, hi | hi⟩
    · exact he.symm
    · cases hi
    · cases hi
  · rintro rfl
    change decodeWord (wordXNN 0xF#4 x 0x0A#8) = _
    simp [decodeWord, decodeFamilyF]

end Sys2Proof
end

section
/-! PROOFS. What each instruction with more than one outcome can do, said once (spec 42_control.md,
44_index_memory.md, 45_keys_timers.md); the other instructions have one outcome, by definition. -/

namespace Sys2Proof.Machine

variable {s t : State}

theorem exec_ret_cases (h : exec .ret s = .next t) :
    (s.sp.val = 0 ∧ t = s.takeFault .stackUnderflow (encode .ret)) ∨
    ∃ n, ∃ hn : n < 16, s.sp.val = n + 1 ∧
      t = ({ s with sp := ⟨n, Nat.lt_succ_of_lt hn⟩ } : State).setPc (s.stack[n] + 2#16) := by
  simp only [exec, execRet] at h
  split at h <;> cases h
  case h_1 hp => exact .inl ⟨(pop_eq_none_iff s).1 hp, rfl⟩
  case h_2 hp =>
    obtain ⟨n, hn, hsp, rfl, rfl⟩ := pop_eq_some hp
    exact .inr ⟨n, hn, hsp, rfl⟩

theorem exec_call_cases {nnn : Addr12} (h : exec (.call nnn) s = .next t) :
    (s.sp.val = 16 ∧ t = s.takeFault .stackOverflow (encode (.call nnn))) ∨
    ∃ hs : s.sp.val < 16,
      t = ({ s with stack := s.stack.set s.sp.val s.pc hs, sp := ⟨s.sp.val + 1, Nat.succ_lt_succ hs⟩ } :
        State).setPc (absolute nnn) := by
  simp only [exec, execCall] at h
  split at h <;> cases h
  case h_1 hp => exact .inl ⟨(push_eq_none_iff s _).1 hp, rfl⟩
  case h_2 hp =>
    obtain ⟨hs, rfl⟩ := push_eq_some hp
    exact .inr ⟨hs, rfl⟩

theorem exec_skp_cases {x : Nibble} (h : exec (.skp x) s = .next t) :
    ((s.reg x).toNat > 15 ∧ t = s.takeFault .keyFault (encode (.skp x))) ∨
    (¬ (s.reg x).toNat > 15 ∧ t = s.skipIf (keyDown s.key (s.reg x).toNat)) := by
  simp only [exec, execSkp] at h
  split at h <;> cases h
  · exact .inl ⟨‹_›, rfl⟩
  · exact .inr ⟨‹_›, rfl⟩

theorem exec_sknp_cases {x : Nibble} (h : exec (.sknp x) s = .next t) :
    ((s.reg x).toNat > 15 ∧ t = s.takeFault .keyFault (encode (.sknp x))) ∨
    (¬ (s.reg x).toNat > 15 ∧ t = s.skipIf (!keyDown s.key (s.reg x).toNat)) := by
  simp only [exec, execSknp] at h
  split at h <;> cases h
  · exact .inl ⟨‹_›, rfl⟩
  · exact .inr ⟨‹_›, rfl⟩

theorem exec_ldVxK_cases {x : Nibble} (h : exec (.ldVxK x) s = .next t) :
    (keysDown s.key = [] ∧ t = s.setWait true) ∨
    ∃ k ks, keysDown s.key = k :: ks ∧
      t = (s.setReg x (BitVec.ofNat 8 (pickKey k ks s.draws))).drawn.advance := by
  simp only [exec, execLdVxK] at h
  split at h <;> cases h
  · exact .inl ⟨‹_›, rfl⟩
  · exact .inr ⟨_, _, ‹_›, rfl⟩

/-- FX65 writes the register file, I and pc only. -/
theorem exec_ldVxMem_eq {x : Nibble} (h : exec (.ldVxMem x) s = .next t) :
    t = (({ s with v := (s.setRegsFrom 0 (bytesUpTo s x)).v } : State).setIndex (indexAfter s x)).advance := by
  simp only [exec, execLdVxMem] at h
  rw [setRegsFrom_eq] at h
  cases h; rfl

/-- No key is in the list of the keys down exactly when none is down (R98). -/
theorem keysDown_eq_nil_iff (keys : Keys) : keysDown keys = [] ↔ ∀ k < 16, keys.getLsbD k = false := by
  simp [keysDown, keyDown]

theorem exec_ldVxK_of_no_key (x : Nibble) (hk : ∀ k < 16, s.key.getLsbD k = false) :
    exec (.ldVxK x) s = .next (s.setWait true) := by
  simp [exec, execLdVxK, (keysDown_eq_nil_iff s.key).2 hk]

/-- How an instruction leaves the fault record and `wait_key`: it faults under `faultOf`'s conditions and writes
nothing but the record (R102, R106); it waits and writes nothing but `wait_key` (R98); or it does
neither and leaves both alone. -/
theorem exec_status {i : Instr} (h : exec i s = .next t) :
    (faultOf i s ≠ .noFault ∧ t = s.takeFault (faultOf i s) (encode i)) ∨
    (((∃ x, i = .ldVxK x) ∧ keysDown s.key = []) ∧ t = s.setWait true) ∨
    (¬ ((∃ x, i = .ldVxK x) ∧ keysDown s.key = []) ∧ t.fault = s.fault ∧ t.waitKey = s.waitKey) := by
  cases i
  case ret =>
    rcases exec_ret_cases h with ⟨h0, rfl⟩ | ⟨n, hn, hsp, rfl⟩
    · exact .inl (by simp [faultOf, h0])
    · exact .inr (.inr (by simp))
  case call =>
    rcases exec_call_cases h with ⟨h16, rfl⟩ | ⟨hs, rfl⟩
    · exact .inl (by simp [faultOf, h16])
    · exact .inr (.inr (by simp))
  case skp =>
    rcases exec_skp_cases h with ⟨h15, rfl⟩ | ⟨-, rfl⟩
    · exact .inl (by simp [faultOf, h15])
    · exact .inr (.inr (by simp))
  case sknp =>
    rcases exec_sknp_cases h with ⟨h15, rfl⟩ | ⟨-, rfl⟩
    · exact .inl (by simp [faultOf, h15])
    · exact .inr (.inr (by simp))
  case ldVxK =>
    rcases exec_ldVxK_cases h with ⟨hk, rfl⟩ | ⟨k, ks, hk, rfl⟩
    · exact .inr (.inl ⟨⟨⟨_, rfl⟩, hk⟩, rfl⟩)
    · exact .inr (.inr (by simp [hk]))
  case ldVxMem =>
    rw [exec_ldVxMem_eq h]
    exact .inr (.inr (by simp))
  all_goals
    cases h
    exact .inr (.inr (by simp))

/-- `wait_key` goes up in exactly the FX0A that finds no key down (R98). -/
theorem exec_waitKey_iff {i : Instr} (h : exec i s = .next t) (hw : s.waitKey = false) :
    t.waitKey = true ↔ (∃ x, i = .ldVxK x) ∧ ∀ k < 16, s.key.getLsbD k = false := by
  rw [← keysDown_eq_nil_iff]
  rcases exec_status h with ⟨hf, rfl⟩ | ⟨hwaits, rfl⟩ | ⟨hnot, -, hkept⟩
  · refine iff_of_false (by simp [hw]) ?_
    rintro ⟨⟨x, rfl⟩, -⟩
    exact hf rfl
  · exact iff_of_true rfl hwaits
  · exact iff_of_false (by simp [hkept, hw]) hnot

/-! ### The units (spec 70_reset_and_hazards.md R125) -/

/-- A load that is served: it was in its place, the ROM fits, and its bytes are all it writes (R121). -/
theorem loadProgram_eq_next {bytes : List Byte} (h : loadProgram bytes s = .next t) :
    s.loadOpen = true ∧ bytes.length ≤ 3584 ∧
      t = { s.memStore Config.programBase bytes with loadOpen := false } := by
  rcases loadProgram_cases bytes s with ⟨ho, hb, e⟩ | ⟨-, -, e⟩ | ⟨-, e⟩
  · rw [e] at h; cases h; exact ⟨ho, hb, rfl⟩
  · rw [e] at h; cases h
  · rw [e] at h; cases h

/-- The state a running core performs its instruction in: `wait_key` cleared, the load window closed (R57). -/
def State.begun (s : State) : State := { s with waitKey := false, loadOpen := false }

@[simp] theorem begun_key (s : State) : s.begun.key = s.key := rfl
@[simp] theorem begun_waitKey (s : State) : s.begun.waitKey = false := rfl

theorem started_eq_begun (s : State) : Claims.started s = (Claims.taken s).begun := rfl

/-- What a cycle can do: nothing when halted (R59), the instruction at pc (R57), or the passing over of an unknown
opcode (R56). -/
theorem cycle_eq_next (h : cycle s = .next t) :
    (s.fault.cause ≠ .noFault ∧ t = s) ∨
    (s.fault.cause = .noFault ∧ ∃ i, decodeWord s.fetch = .ok i ∧ exec i s.begun = .next t) ∨
    (s.fault.cause = .noFault ∧ ∃ u, decodeWord s.fetch = .error u ∧ t = skipUnknown s.fetch s.begun) := by
  by_cases hc : s.fault.cause = .noFault
  · have hrun : s.halted = false := by simp [State.halted, hc]
    rcases cycle_of_running hrun with ⟨i, hd, e⟩ | ⟨u, hd, e⟩
    · exact .inr (.inl ⟨hc, i, hd, e ▸ h⟩)
    · rw [e] at h; cases h
      exact .inr (.inr ⟨hc, u, hd, rfl⟩)
  · rw [cycle_of_halted ((halted_iff s).2 hc)] at h; cases h
    exact .inl ⟨hc, rfl⟩

theorem cycle_of_decodeWord {i : Instr} (hc : s.fault.cause = .noFault) (hd : decodeWord s.fetch = .ok i) :
    cycle s = exec i s.begun := by
  simp [cycle, State.halted, hc, hd, State.begun]

/-- After the cycle of a running core `wait_key` tells whether it waited (R26, R98). -/
theorem cycle_waitKey_iff (hc : s.fault.cause = .noFault) (h : cycle s = .next t) :
    t.waitKey = true ↔
      (∃ x : Nibble, s.fetch = 0xF#4 ++ x ++ 0x0A#8) ∧ ∀ k < 16, s.key.getLsbD k = false := by
  simp only [← decodeWord_eq_ldVxK_iff]
  rcases cycle_eq_next h with ⟨hh, -⟩ | ⟨-, i, hd, he⟩ | ⟨-, u, hd, rfl⟩
  · exact absurd hc hh
  · simpa [hd] using exec_waitKey_iff he rfl
  · refine iff_of_false (by simp [skipUnknown]) ?_
    rintro ⟨⟨x, hx⟩, -⟩
    simp [hd] at hx

/-- A cycle leaves the keys alone and never takes the draw flag down (R23, R24). -/
theorem cycle_keeps_key_drawFlag (h : cycle s = .next t) :
    t.key = s.key ∧ (s.drawFlag = true → t.drawFlag = true) := by
  rcases cycle_eq_next h with ⟨-, rfl⟩ | ⟨-, i, -, he⟩ | ⟨-, u, -, rfl⟩
  · exact ⟨rfl, id⟩
  · obtain ⟨hkey, -, -, -, -, -, hdraw, -⟩ := exec_keeps he
    exact ⟨hkey, hdraw⟩
  · exact ⟨rfl, id⟩

/-- The units that change a key, and those that take the draw flag down (R23, R24, R34). -/
theorem serve_key_drawFlag {u : HostUnit} (h : serve u s = .next t) :
    (t.key = s.key ∨ u = .initCore ∨ ∃ k, u = .setKeys k) ∧
    ((s.drawFlag = true → t.drawFlag = true) ∨ u = .initCore ∨ u = .clearDraw) := by
  cases u with
  | initCore => exact ⟨.inr (.inl rfl), .inr (.inl rfl)⟩
  | loadProgram bytes => obtain ⟨-, -, rfl⟩ := loadProgram_eq_next h; exact ⟨.inl rfl, .inl id⟩
  | step =>
    obtain ⟨hkey, hdraw⟩ := cycle_keeps_key_drawFlag h
    exact ⟨.inl hkey, .inl hdraw⟩
  | tickTimer =>
    cases h
    rw [tickTimer_eq]
    exact ⟨.inl rfl, .inl id⟩
  | setKeys k => cases h; exact ⟨.inr (.inr ⟨k, rfl⟩), .inl id⟩
  | clearDraw => cases h; exact ⟨.inl rfl, .inr (.inr rfl)⟩

/-- The unit a claim names is the unit the step serves. -/
theorem nextUnit_eq (s : State) : Claims.nextUnit s = s.nextUnit := by
  unfold Claims.nextUnit State.nextUnit
  split <;> simp_all

/-- One step serves the next unit, in the terms of the claims. -/
theorem step_of_nextUnit {u : HostUnit} (h : Claims.nextUnit s = u) : step s = serve u (Claims.taken s) := by
  rw [step_eq_serve, ← nextUnit_eq, h]
  rfl

/-! ### The state after reset (spec 10_state.md R29) -/

theorem memRead_resetWith_font (font : Font) (a : Fin 80) : (State.resetWith font).memRead a = font[a] := by
  have ha : wrap a = a := Nat.mod_eq_of_lt (by simp only [Config.memSize]; omega)
  change resetByte font (wrap a) = font[a]
  simp [resetByte, ha]

theorem memRead_resetWith_above (font : Font) {a : Nat} (hlo : 0x050 ≤ a) (hhi : a < 0x1000) :
    (State.resetWith font).memRead a = 0#8 := by
  have ha : wrap a = a := Nat.mod_eq_of_lt hhi
  change resetByte font (wrap a) = 0#8
  simp [resetByte, ha, Nat.not_lt.2 hlo]

theorem reg_resetWith (font : Font) (r : Nibble) : (State.resetWith font).reg r = 0#8 := by
  simp [State.reg, State.resetWith]

theorem stack_resetWith (font : Font) (j : Fin 16) : (State.resetWith font).stack[j] = 0#16 := by
  simp [State.resetWith]

end Sys2Proof.Machine
end

section
/-! PROOFS. Which registers an instruction may change (spec 10_state.md R14, R15). -/

namespace Sys2Proof.Machine

variable {s t : State} {i : Instr}

/-- The registers an instruction may write: those it names as destinations and, for the seven that define a
flag, VF (R15). -/
def WritesReg (i : Instr) (r : Nibble) : Prop :=
  match i with
  | .ldImm x _ | .addImm x _ | .rnd x _ | .ldReg x _ | .orReg x _ | .andReg x _ | .xorReg x _ => r = x
  | .ldVxDt x | .ldVxK x => r = x
  | .addReg x _ | .sub x _ | .subn x _ => r = x ∨ r = vf
  | .shr x y | .shl x y => r = x ∨ r = y ∨ r = vf
  | .drw _ _ _ | .addI _ => r = vf
  | .ldVxMem x => r.toNat ≤ x.toNat
  | _ => False

/-- An instruction leaves every register alone that it does not write: those with one outcome by the one update
they are, the others by what each outcome writes. -/
theorem exec_reg_of_not_writesReg (h : exec i s = .next t) {r : Nibble} (hr : ¬ WritesReg i r) :
    t.reg r = s.reg r := by
  cases i
  case ret => rcases exec_ret_cases h with ⟨-, rfl⟩ | ⟨_, _, -, rfl⟩ <;> rfl
  case call => rcases exec_call_cases h with ⟨-, rfl⟩ | ⟨_, rfl⟩ <;> rfl
  case skp => rcases exec_skp_cases h with ⟨-, rfl⟩ | ⟨-, rfl⟩ <;> rfl
  case sknp => rcases exec_sknp_cases h with ⟨-, rfl⟩ | ⟨-, rfl⟩ <;> rfl
  case ldVxK =>
    rcases exec_ldVxK_cases h with ⟨-, rfl⟩ | ⟨_, _, -, rfl⟩
    · rfl
    · simp_all [WritesReg]
  case ldVxMem x =>
    cases h
    have hlen : (bytesUpTo s x).length = x.toNat + 1 := by simp [bytesUpTo]
    have hx := x.isLt
    simp only [WritesReg, not_le] at hr
    rw [advance_reg, setIndex_reg, reg_setRegsFrom _ _ _ (by omega), dif_neg (by omega)]
  all_goals
    cases h
    simp_all [WritesReg]

/-- An instruction that defines a flag writes it to VF last, as a flag byte (R15, R87). -/
theorem exec_eq_setVF_flagByte
    (hi : ∃ x y n, i = .addReg x y ∨ i = .sub x y ∨ i = .shr x y ∨ i = .subn x y ∨ i = .shl x y ∨
      i = .drw x y n ∨ i = .addI x) (s : State) :
    ∃ u b, exec i s = .next (State.setVF u (flagByte b)).advance := by
  obtain ⟨x, y, n, rfl | rfl | rfl | rfl | rfl | rfl | rfl⟩ := hi <;> exact ⟨_, _, rfl⟩

theorem reg_vf_setVF_advance (s : State) (b : Byte) : (s.setVF b).advance.reg 0xF#4 = b := by simp [vf]

end Sys2Proof.Machine
end

section
/-! PROOFS. The invariant of the machine (spec 10_state.md R28): each unit keeps it. -/

namespace Sys2Proof.Machine

variable {s t : State}

/-! ### Two ways to meet the invariant -/

/-- Nothing is halted, nothing waits and memory is as at reset while a program may still be loaded (R124). -/
theorem inv_of_boot (h : s = { State.resetWith s.font with
    key := s.key, schedule := s.schedule, stream := s.stream, events := s.events, draws := s.draws }) :
    Inv s where
  memCanonical := by rw [h]; rfl
  noFaultClear _ := by rw [h]; rfl
  faultShown hc := absurd (by rw [h]; rfl) hc
  waitShown hw := by rw [h] at hw; cases hw
  bootUntouched _ := h

/-- A core that runs, its load window closed, and waits only at an FX0A. -/
theorem inv_of_running (hm : Memory.wf s.font s.mem = true) (hf : s.fault = FaultRecord.clear)
    (ho : s.loadOpen = false) (hw : s.waitKey = true → ∃ x, decodeWord s.fetch = .ok (.ldVxK x)) : Inv s where
  memCanonical := hm
  noFaultClear _ := hf
  faultShown hc := absurd (by rw [hf]; rfl) hc
  waitShown h := ⟨by rw [hf]; rfl, ho, hw h⟩
  bootUntouched h := by rw [ho] at h; cases h

/-! ### The units the core does not run -/

theorem Inv.boot_values (hs : Inv s) (ho : s.loadOpen = true) :
    s.fault = FaultRecord.clear ∧ s.waitKey = false ∧ s.dt = 0#8 ∧ s.st = 0#8 ∧ s.drawFlag = false := by
  rw [hs.bootUntouched ho]
  exact ⟨rfl, rfl, rfl, rfl, rfl⟩

/-- The invariant says nothing of the requests, the keys and the event log, and of the timers and the draw flag
only that they are 0 while a program may be loaded. -/
theorem Inv.set_unread (hs : Inv s) (dt st : Byte) (key : Keys) (drawFlag : Bool) (schedule : List HostUnit)
    (stream : Option Nat) (events : List Event)
    (hboot : s.loadOpen = true → dt = 0#8 ∧ st = 0#8 ∧ drawFlag = false) :
    Inv { s with dt, st, key, drawFlag, schedule, stream, events } where
  memCanonical := hs.memCanonical
  noFaultClear := hs.noFaultClear
  faultShown := hs.faultShown
  waitShown := hs.waitShown
  bootUntouched ho := by
    obtain ⟨rfl, rfl, rfl⟩ := hboot ho
    exact congrArg (fun u : State =>
      { u with dt := 0#8, st := 0#8, key, drawFlag := false, schedule, stream, events }) (hs.bootUntouched ho)

theorem Inv.takeUnit (hs : Inv s) : Inv s.takeUnit :=
  hs.set_unread s.dt s.st s.key s.drawFlag _ _ s.events fun ho => (hs.boot_values ho).2.2

theorem Inv.setKeys (hs : Inv s) (keys : Keys) : Inv (setKeys keys s) :=
  hs.set_unread s.dt s.st keys s.drawFlag s.schedule s.stream s.events fun ho => (hs.boot_values ho).2.2

theorem Inv.clearDraw (hs : Inv s) : Inv (clearDraw s) :=
  hs.set_unread s.dt s.st s.key false s.schedule s.stream s.events fun ho =>
    have ⟨_, _, hdt, hst, _⟩ := hs.boot_values ho
    ⟨hdt, hst, rfl⟩

theorem Inv.tickTimer (hs : Inv s) : Inv (tickTimer s) := by
  rw [tickTimer_eq]
  refine hs.set_unread _ _ s.key s.drawFlag s.schedule s.stream _ fun ho => ?_
  obtain ⟨-, -, hdt, hst, hdf⟩ := hs.boot_values ho
  simp [hdt, hst, hdf]

theorem inv_initCore (s : State) : Inv (initCore s) := inv_of_boot rfl

theorem Inv.of_loadProgram (hs : Inv s) {bytes : List Byte} (h : loadProgram bytes s = .next t) : Inv t := by
  obtain ⟨ho, -, rfl⟩ := loadProgram_eq_next h
  obtain ⟨hf, hw, -⟩ := hs.boot_values ho
  exact inv_of_running (wf_store hs.memCanonical _ _) hf rfl fun h => by simp [hw] at h

/-! ### The core's own step -/

/-- An instruction that can fault has a word in which every bit is decoded, so the record shows the word at pc
(R106). -/
theorem encode_eq_of_faultOf {i : Instr} {op : Word} (hd : decodeWord op = .ok i)
    (hf : faultOf i s ≠ .noFault) : encode i = op := by
  rcases encode_of_decodeWord hd with he | ⟨x, y, rfl | rfl⟩
  · exact he
  · exact absurd rfl hf
  · exact absurd rfl hf

/-- An instruction of a running core keeps the invariant, whether it faults, waits or completes. -/
theorem Inv.of_exec {i : Instr} (hs : Inv s) (hrun : s.fault.cause = .noFault) (hw : s.waitKey = false)
    (ho : s.loadOpen = false) (hd : decodeWord s.fetch = .ok i) (h : exec i s = .next t) : Inv t := by
  obtain ⟨-, -, -, hopen, -, -, -, hmem, -, -⟩ := exec_keeps h
  have hclear := hs.noFaultClear hrun
  rcases exec_status h with ⟨hf, rfl⟩ | ⟨⟨⟨x, rfl⟩, -⟩, rfl⟩ | ⟨-, hfault, hwait⟩
  · exact {
      memCanonical := hs.memCanonical
      noFaultClear := fun hc => absurd hc hf
      faultShown := fun _ => ⟨rfl, encode_eq_of_faultOf hd hf, ho, i, hd, rfl⟩
      waitShown := fun h => by simp [hw] at h
      bootUntouched := fun h => by simp [ho] at h }
  · exact inv_of_running hs.memCanonical hclear ho fun _ => ⟨x, hd⟩
  · exact inv_of_running (hmem hs.memCanonical) (hfault.trans hclear) (hopen.trans ho)
      fun h => by simp [hwait, hw] at h

theorem Inv.begun (hs : Inv s) (hrun : s.fault.cause = .noFault) : Inv s.begun :=
  inv_of_running hs.memCanonical (hs.noFaultClear hrun) rfl fun h => by cases h

theorem Inv.of_cycle (hs : Inv s) (h : cycle s = .next t) : Inv t := by
  rcases cycle_eq_next h with ⟨-, rfl⟩ | ⟨hc, i, hd, he⟩ | ⟨hc, u, -, rfl⟩
  · exact hs
  · exact (hs.begun hc).of_exec hc rfl rfl hd he
  · exact inv_of_running hs.memCanonical (hs.noFaultClear hc) rfl fun h => by cases h

theorem Inv.of_serve (hs : Inv s) {u : HostUnit} (h : serve u s = .next t) : Inv t := by
  cases u with
  | initCore => cases h; exact inv_initCore s
  | loadProgram bytes => exact hs.of_loadProgram h
  | step => exact hs.of_cycle h
  | tickTimer => cases h; exact hs.tickTimer
  | setKeys keys => cases h; exact hs.setKeys keys
  | clearDraw => cases h; exact hs.clearDraw

end Sys2Proof.Machine
end

section
/-! PROOFS. The statements about the state (spec 10_state.md), each settled by the lemmas before. -/

namespace Sys2Proof.Proofs

open Sys2Proof.Machine Sys2Proof.Claims

/-- Settles O59: taking a unit from the requests keeps the invariant, and so does serving it, whichever it is. -/
theorem everyStepKeepsTheInvariant : Obligations.EveryStepKeepsTheInvariant :=
  fun _ _ hs h => hs.takeUnit.of_serve h

/-- Settles O58: the reset state is what the invariant asks of a state that may still load a program. -/
theorem resetMeetsTheInvariant : Obligations.ResetMeetsTheInvariant := inv_of_boot rfl

/-- Settles O29: VF, written last, reads as the flag byte. -/
theorem flagInstructionsLeaveVfZeroOrOne : Obligations.FlagInstructionsLeaveVfZeroOrOne := by
  intro i s t hi h
  obtain ⟨u, b, he⟩ := exec_eq_setVF_flagByte hi s
  rw [he] at h
  cases h
  rw [reg_vf_setVF_advance]
  exact flagByte_cases b

/-- Settles O30: what the hypotheses leave does not write VF. -/
theorem otherInstructionsKeepVf : Obligations.OtherInstructionsKeepVf := by
  intro i s t h hflag hnamed hDt hK hMem
  refine exec_reg_of_not_writesReg h ?_
  cases i
  case ldVxMem x =>
    have hx : x ≠ 0xF#4 := fun e => hMem (e ▸ rfl)
    simp only [WritesReg]
    bv_omega
  all_goals simp_all [WritesReg, eq_comm]

/-- Settles O43: the instructions with more than one outcome by what each of those writes, the others by their one
update of the state. -/
theorem onlyTheNamedInstructionsWrite : Obligations.OnlyTheNamedInstructionsWrite := by
  intro i s t h
  cases i
  case ret => rcases exec_ret_cases h with ⟨-, rfl⟩ | ⟨_, _, -, rfl⟩ <;> simp
  case call => rcases exec_call_cases h with ⟨-, rfl⟩ | ⟨_, rfl⟩ <;> simp
  case skp => rcases exec_skp_cases h with ⟨-, rfl⟩ | ⟨-, rfl⟩ <;> simp
  case sknp => rcases exec_sknp_cases h with ⟨-, rfl⟩ | ⟨-, rfl⟩ <;> simp
  case ldVxK => rcases exec_ldVxK_cases h with ⟨-, rfl⟩ | ⟨_, _, -, rfl⟩ <;> simp
  case ldVxMem => rw [exec_ldVxMem_eq h]; simp
  all_goals
    cases h
    simp

/-- Settles O44: what is left moves pc by `advance`, FX0A too once a key is down. -/
theorem sequentialInstructionsAddTwo : Obligations.SequentialInstructionsAddTwo := by
  intro i s t h hjump hskip hwait
  have hpc : t.pc = s.pc + 2#16 := by
    cases i
    case ldVxK x =>
      obtain ⟨k, hk, hdown⟩ := hwait x rfl
      rcases exec_ldVxK_cases h with ⟨hnone, -⟩ | ⟨_, _, -, rfl⟩
      · have := (keysDown_eq_nil_iff s.key).1 hnone k hk
        simp [hdown] at this
      · rfl
    case ldVxMem => rw [exec_ldVxMem_eq h]; rfl
    case jp | call | jpV0 | ret => simp at hjump
    case seImm | sneImm | seReg | sneReg | skp | sknp => simp at hskip
    all_goals
      cases h
      rfl
  rw [hpc, BitVec.toNat_add]
  rfl

/-- Settles O49: unit by unit, no other one writes a key or clears the draw flag. -/
theorem keysAndDrawFlagAreTheHosts : Obligations.KeysAndDrawFlagAreTheHosts := by
  intro s t h
  obtain ⟨hkey, hdraw⟩ := serve_key_drawFlag ((step_of_nextUnit rfl).symm.trans h)
  exact ⟨fun hne => hkey.resolve_left hne, fun hup hdown => hdraw.resolve_left fun hk => by
    simp [hk hup] at hdown⟩

/-- Settles O57: FX0A is the word FX0A and no other, and `wait_key` goes up only in its waiting outcome. -/
theorem waitKeyShowsTheWait : Obligations.WaitKeyShowsTheWait := by
  refine ⟨fun s x hu hc hop hk => ?_, fun s t hu hc h => ?_⟩
  · have hd : decodeWord (taken s).fetch = .ok (.ldVxK x) := (decodeWord_eq_ldVxK_iff _ _).2 hop
    calc step s = cycle (taken s) := step_of_nextUnit hu
      _ = exec (.ldVxK x) (taken s).begun := cycle_of_decodeWord hc hd
      _ = exec (.ldVxK x) (started s) := by rw [started_eq_begun]
      _ = .next ((started s).setWait true) := exec_ldVxK_of_no_key x hk
  · exact cycle_waitKey_iff (s := taken s) hc ((step_of_nextUnit hu).symm.trans h)

/-- Settles O48: each host write is the unit itself, served in the state with the unit taken. -/
theorem hostWritesOnlyKeysAndDrawFlag : Obligations.HostWritesOnlyKeysAndDrawFlag :=
  ⟨fun _ _ h => step_of_nextUnit h, fun _ h => step_of_nextUnit h⟩

/-- Settles O51: memory lists nothing at reset, so every byte reads as the reset contents. -/
theorem resetValues : Obligations.ResetValues :=
  ⟨memRead_resetWith_font _, fun _ => memRead_resetWith_above _, reg_resetWith _, rfl, rfl, stack_resetWith _,
    rfl, rfl, rfl, fun p _ => fbPixel_fbBlank p, fun _ _ => BitVec.getLsbD_zero, rfl, rfl, rfl⟩

end Sys2Proof.Proofs
end

section
/-! PROOFS. The canonical form of memory is unique, and what a store leaves to be read at an address given modulo
4096 (spec 20_memory.md R35, R37 to R39, R47). -/

namespace Sys2Proof.Machine

/-! ### The canonical form is unique -/

section Canonical

variable {font : Font} {lo a : Nat} {x : Byte} {m m' : Memory}

theorem wfFrom_cons_iff :
    Memory.wfFrom font lo ((a, x) :: m) = true ↔
      lo ≤ a ∧ a < Config.memSize ∧ x ≠ resetByte font a ∧ Memory.wfFrom font (a + 1) m = true := by
  simp [Memory.wfFrom, and_assoc]

theorem read_cons_self : Memory.read font ((a, x) :: m) a = x := if_pos rfl

theorem read_cons_of_ne {c : Nat} (h : c ≠ a) : Memory.read font ((a, x) :: m) c = Memory.read font m c :=
  if_neg h

/-- Below the address a canonical memory starts from nothing is listed. -/
theorem read_of_lt_wfFrom (hm : Memory.wfFrom font lo m = true) (ha : a < lo) :
    Memory.read font m a = resetByte font a := by
  induction m generalizing lo with
  | nil => rfl
  | cons cell m ih =>
    obtain ⟨b, w⟩ := cell
    obtain ⟨hlo, -, -, hm⟩ := wfFrom_cons_iff.1 hm
    rw [read_cons_of_ne (by omega), ih hm (by omega)]

/-- The address of a listed cell tells the memory from one that starts above it: no cell is equal to the reset
contents. -/
theorem read_cons_ne_of_wfFrom_succ (hm : Memory.wfFrom font lo ((a, x) :: m) = true)
    (hm' : Memory.wfFrom font (a + 1) m' = true) :
    Memory.read font ((a, x) :: m) a ≠ Memory.read font m' a := by
  obtain ⟨-, -, hx, -⟩ := wfFrom_cons_iff.1 hm
  rwa [read_cons_self, read_of_lt_wfFrom hm' (Nat.lt_succ_self a)]

/-- Canonical memories that read the same from where they start are the same list: their first cells stand at one
address, for the lower of two would be read in one memory only. -/
theorem eq_of_wfFrom_of_read_eq (hm : Memory.wfFrom font lo m = true) (hm' : Memory.wfFrom font lo m' = true)
    (hread : ∀ c, lo ≤ c → c < Config.memSize → Memory.read font m c = Memory.read font m' c) : m = m' := by
  induction m generalizing lo m' with
  | nil =>
    cases m' with
    | nil => rfl
    | cons cell' m' =>
      obtain ⟨hlo, hlt, -, -⟩ := wfFrom_cons_iff.1 hm'
      exact absurd (hread _ hlo hlt).symm (read_cons_ne_of_wfFrom_succ hm' rfl)
  | cons cell m ih =>
    obtain ⟨a, x⟩ := cell
    obtain ⟨hlo, hlt, hx, htail⟩ := wfFrom_cons_iff.1 hm
    cases m' with
    | nil => exact absurd (hread a hlo hlt) (read_cons_ne_of_wfFrom_succ hm rfl)
    | cons cell' m' =>
      obtain ⟨b, y⟩ := cell'
      obtain ⟨hlo', hlt', hy, htail'⟩ := wfFrom_cons_iff.1 hm'
      rcases Nat.lt_trichotomy a b with hab | rfl | hba
      · exact absurd (hread a hlo hlt)
          (read_cons_ne_of_wfFrom_succ hm (wfFrom_cons_iff.2 ⟨hab, hlt', hy, htail'⟩))
      · have hxy : x = y := by simpa only [read_cons_self] using hread a hlo hlt
        have htails : m = m' := ih htail htail' fun c hc hcs => by
          have hca : c ≠ a := by omega
          simpa only [read_cons_of_ne hca] using hread c (by omega) hcs
        rw [hxy, htails]
      · exact absurd (hread b hlo' hlt').symm
          (read_cons_ne_of_wfFrom_succ hm' (wfFrom_cons_iff.2 ⟨hba, hlt, hx, htail⟩))

end Canonical

/-! ### Reads and stores of the state -/

/-- A read depends on its address modulo 4096 only (R37). -/
theorem memRead_congr (s : State) {a b : Nat} (h : wrap a = wrap b) : s.memRead a = s.memRead b :=
  congrArg (Memory.read s.font s.mem) h

/-- A read after the store of one byte (R38, R39). -/
theorem memRead_memStore_singleton (s : State) (a b : Nat) (x : Byte) :
    (s.memStore a [x]).memRead b = if wrap b = wrap a then x else s.memRead b :=
  read_write s.mem (wrap a) (wrap b) x

@[simp] theorem length_regsUpTo (s : State) (x : Nibble) : (regsUpTo s x).length = x.toNat + 1 := by
  simp [regsUpTo]

@[simp] theorem getElem_regsUpTo (s : State) (x : Nibble) (k : Nat) (hk : k < (regsUpTo s x).length) :
    (regsUpTo s x)[k] = s.reg (BitVec.ofNat 4 k) := by
  simp [regsUpTo]

/-- The registers FX55 stores are read back, each at its own address (R92, R94). -/
theorem memRead_memStore_regsUpTo (s : State) {x : Nibble} {k : Nat} (hk : k ≤ x.toNat) :
    (s.memStore (indexed s 0) (regsUpTo s x)).memRead (indexed s k) = s.reg (BitVec.ofNat 4 k) := by
  have hx := x.isLt
  have hlen : (regsUpTo s x).length ≤ Config.memSize := by simp only [length_regsUpTo, Config.memSize]; omega
  have hk' : k < (regsUpTo s x).length := by rw [length_regsUpTo]; omega
  rw [← getElem_regsUpTo s x k hk']
  exact memRead_memStore s (indexed s 0) (regsUpTo s x) hlen k hk'

end Sys2Proof.Machine
end

section
/-! PROOFS. The statements about memory (spec 20_memory.md), each settled by the lemmas before. -/

namespace Sys2Proof.Proofs

open Sys2Proof.Machine Sys2Proof.Claims

/-- Settles O10: after FX55 pc and pc + 1 name, modulo 4096, the addresses Vk and Vk+1 were stored at. -/
theorem storedBytesAreFetchedNext : Obligations.StoredBytesAreFetchedNext := by
  intro s x k hk hpc
  refine ⟨_, rfl, ?_⟩
  have hi : wrap (s.pc + 2#16).toNat = wrap (indexed s k) := hpc
  have hi' : wrap ((s.pc + 2#16).toNat + 1) = wrap (indexed s (k + 1)) := Nat.ModEq.add_right 1 hpc
  simp only [opAtPc, advance_pc, setIndex_pc, memStore_pc, advance_memRead, setIndex_memRead]
  rw [memRead_congr _ hi, memRead_congr _ hi', memRead_memStore_regsUpTo s (by omega),
    memRead_memStore_regsUpTo s hk]

/-- Settles O12: a canonical memory is canonical from address 0. -/
theorem canonicalMemoryIsUnique : Obligations.CanonicalMemoryIsUnique :=
  fun _ _ _ hm hm' hread => eq_of_wfFrom_of_read_eq hm hm' fun c _ hc => hread c hc

/-- Settles O11: the byte by the law of a read after a write, the rest because a store is an update of memory. -/
theorem memoryReadAfterWrite : Obligations.MemoryReadAfterWrite :=
  fun s a b x => ⟨memRead_memStore_singleton s a b x, rfl⟩

end Sys2Proof.Proofs
end

section
/-! PROOFS. The decoder and the encoder against each other, the opcode map and the unknown words (spec
30_encoding.md R49 to R55). -/

namespace Sys2Proof

variable {op w : Word} {i : Instr}

/-! ### The two round trips -/

/-- The fields of the layout give back the operands, the family and the sub-field the instruction (R51, R54). -/
@[simp] theorem decodeWord_encode (i : Instr) : decodeWord (encode i) = .ok i := by
  cases i
  case cls | ret => rfl
  case ldReg | orReg | andReg | xorReg | addReg | sub | shr | subn | shl =>
    simp [encode, decodeWord, decodeFamily8]
  case skp | sknp => simp [encode, decodeWord, decodeFamilyE]
  case ldVxDt | ldVxK | ldDtVx | ldStVx | addI | ldF | ldB | ldMemVx | ldVxMem =>
    simp [encode, decodeWord, decodeFamilyF]
  all_goals simp [encode, decodeWord]

/-- Decoding takes two bytes, read big-endian, and hands back the rest (R41, R49). -/
theorem decode_pair (hi lo : Byte) (rest : List Byte) :
    decode (hi :: lo :: rest) = (decodeWord (joinBytes hi lo)).map (fun i => (i, rest)) := rfl

theorem decode_bytes_of_decodeWord (h : decodeWord op = .ok i) (rest : List Byte) :
    decode (hiByte op :: loByte op :: rest) = .ok (i, rest) := by
  rw [decode_pair, joinBytes_hiByte_loByte, h]
  rfl

theorem decodeWord_of_decode_pair {hi lo : Byte} {rest rest' : List Byte}
    (h : decode (hi :: lo :: rest) = .ok (i, rest')) : decodeWord (joinBytes hi lo) = .ok i := by
  rw [decode_pair] at h
  cases hd : decodeWord (joinBytes hi lo) <;> rw [hd] at h <;> cases h
  rfl

/-- The nibble that decoding loses is not the family. -/
theorem opFamily_encode_of_decodeWord (h : decodeWord op = .ok i) : opFamily (encode i) = opFamily op := by
  unfold decodeWord at h
  split at h
  case h_1 => rw [encode_of_decodeFamily0 h]
  case h_9 hf => rw [encode_of_decodeFamily8 hf h]
  case h_15 hf => rw [encode_of_decodeFamilyE hf h]
  case h_16 =>
    have hf : opFamily op = 0xF#4 := by simp only [imp_false] at *; bv_omega
    rw [encode_of_decodeFamilyF hf h]
  all_goals
    rename_i hf
    cases h
    simp [encode, hf]

theorem and_maskFFF0 (op : Word) : op &&& 0xFFF0#16 = wordXYN (opFamily op) (opX op) (opY op) 0#4 := by
  have hones : ∀ a : Nibble, a &&& 0xF#4 = a := by decide
  conv_lhs => rw [word_eq_wordXYN op]
  rw [show (0xFFF0#16 : Word) = wordXYN 0xF#4 0xF#4 0xF#4 0#4 by decide, and_wordXYN]
  simp only [hones, BitVec.and_zero]

/-- In the families 5 and 9 the low nibble is all that is lost (R53). -/
theorem encode_of_decodeWord_of_ignored (hf : opFamily op = 0x5#4 ∨ opFamily op = 0x9#4)
    (h : decodeWord op = .ok i) : encode i = op &&& 0xFFF0#16 := by
  rw [and_maskFFF0]
  rcases hf with hf | hf <;> rw [hf] <;> simp only [decodeWord, hf] at h <;> cases h <;> rfl

/-- In every other family nothing is lost. -/
theorem encode_of_decodeWord_of_not_ignored (hf : ¬ (opFamily op = 0x5#4 ∨ opFamily op = 0x9#4))
    (h : decodeWord op = .ok i) : encode i = op := by
  have hfam := opFamily_encode_of_decodeWord h
  refine (encode_of_decodeWord h).resolve_right ?_
  rintro ⟨x, y, rfl | rfl⟩
  · exact hf (.inl (by rw [← hfam]; exact opFamily_wordXYN ..))
  · exact hf (.inr (by rw [← hfam]; exact opFamily_wordXYN ..))

/-! ### The rows of the opcode map (R54) -/

/-- The bits of a word that decide its row, by its family: all of them in family 0, the low nibble in family 8, the
low byte in the families E and F, no sub-field in the others (R53). -/
def familyMask (f : Nibble) : Word :=
  match f with
  | 0x0#4 => 0xFFFF#16
  | 0x8#4 => 0xF00F#16
  | 0xE#4 | 0xF#4 => 0xF0FF#16
  | _ => 0xF000#16

/-- The row of the instruction a word decodes to. -/
def decodedRow (op : Word) : Except Unknown OpcodeRow := (decodeWord op).map rowOf

theorem decodedRow_eq_ok_iff {r : OpcodeRow} : decodedRow op = .ok r ↔ ∃ i, decodeWord op = .ok i ∧ rowOf i = r := by
  unfold decodedRow
  cases decodeWord op <;> simp [Except.map]

theorem decodedRow_of_family8 (hf : opFamily op = 0x8#4) (hf' : opFamily w = 0x8#4) (hn : opN op = opN w) :
    decodedRow op = decodedRow w := by
  simp only [decodedRow, decodeWord, hf, hf', decodeFamily8, hn]
  split <;> rfl

theorem decodedRow_of_familyE (hf : opFamily op = 0xE#4) (hf' : opFamily w = 0xE#4) (hnn : opNN op = opNN w) :
    decodedRow op = decodedRow w := by
  simp only [decodedRow, decodeWord, hf, hf', decodeFamilyE, hnn]
  split <;> rfl

theorem decodeWord_of_familyF (hf : opFamily op = 0xF#4) : decodeWord op = decodeFamilyF op := by
  simp [decodeWord, hf]

theorem decodedRow_of_familyF (hf : opFamily op = 0xF#4) (hf' : opFamily w = 0xF#4) (hnn : opNN op = opNN w) :
    decodedRow op = decodedRow w := by
  simp only [decodedRow, decodeWord_of_familyF hf, decodeWord_of_familyF hf', decodeFamilyF, hnn]
  split <;> rfl

/-- The row depends on nothing but the bits under the family's mask. -/
theorem decodedRow_of_and (h : op &&& familyMask (opFamily w) = w) : decodedRow op = decodedRow w := by
  unfold familyMask at h
  split at h
  case h_1 =>
    obtain rfl : op = w := by rwa [show 0xFFFF#16 = BitVec.allOnes 16 from rfl, BitVec.and_allOnes] at h
    rfl
  case h_2 hw =>
    obtain ⟨hf, hn⟩ := fields_of_andF00F h
    exact decodedRow_of_family8 (hf.trans hw) hw hn
  case h_3 hw =>
    obtain ⟨hf, hnn⟩ := fields_of_andF0FF h
    exact decodedRow_of_familyE (hf.trans hw) hw hnn
  case h_4 hw =>
    obtain ⟨hf, hnn⟩ := fields_of_andF0FF h
    exact decodedRow_of_familyF (hf.trans hw) hw hnn
  case h_5 h0 h8 hE hF =>
    have hf := opFamily_of_and h
    unfold decodedRow decodeWord
    rw [hf]
    split
    case h_1 hw => exact absurd hw h0
    case h_9 hw => exact absurd hw h8
    case h_15 hw => exact absurd hw hE
    case h_16 => simp only [imp_false] at *; bv_omega
    all_goals rfl

theorem mask_of_mem_opcodeTable : ∀ r ∈ opcodeTable, r.mask = familyMask (opFamily r.word) := by decide

theorem decodedRow_word : ∀ r ∈ opcodeTable, decodedRow r.word = .ok r := by decide

theorem length_opcodeTable : opcodeTable.length = 34 := rfl

theorem rowOf_mem_opcodeTable (i : Instr) : rowOf i ∈ opcodeTable := by
  cases i <;> exact List.elem_iff.1 rfl

open Laws.EncodesInRow in
theorem encode_and_mask (i : Instr) : encode i &&& (rowOf i).mask = (rowOf i).word := by
  suffices h : Statement i from eq_of_beq h
  cases i <;> simp only [cls, ret, jp, call, seImm, sneImm, seReg, ldImm, addImm, ldReg, orReg, andReg, xorReg,
    addReg, sub, shr, subn, shl, sneReg, ldI, jpV0, rnd, drw, skp, sknp, ldVxDt, ldVxK, ldDtVx, ldStVx, addI,
    ldF, ldB, ldMemVx, ldVxMem]

/-- A word that decodes has the bits of its instruction's row under the row's mask. -/
theorem and_mask_rowOf (h : decodeWord op = .ok i) : op &&& (rowOf i).mask = (rowOf i).word := by
  rcases encode_of_decodeWord h with he | ⟨x, y, rfl | rfl⟩
  · rw [← he, encode_and_mask]
  all_goals
    rw [← encode_and_mask]
    simp only [rowOf, and_maskF000, opFamily_encode_of_decodeWord h]

theorem and_mask_eq_iff_decodedRow {r : OpcodeRow} (hr : r ∈ opcodeTable) :
    op &&& r.mask = r.word ↔ decodedRow op = .ok r := by
  constructor
  · intro h
    rw [mask_of_mem_opcodeTable r hr] at h
    exact (decodedRow_of_and h).trans (decodedRow_word r hr)
  · intro h
    obtain ⟨i, hd, rfl⟩ := decodedRow_eq_ok_iff.1 h
    exact and_mask_rowOf hd

/-! ### The unknown words (R55) -/

theorem exists_error_decodeFamily0_iff (op : Word) :
    (∃ u, decodeFamily0 op = .error u) ↔ op.toNat ≠ 0x00E0 ∧ op.toNat ≠ 0x00EE := by
  unfold decodeFamily0
  split
  case h_3 =>
    refine iff_of_true ⟨_, rfl⟩ ?_
    simp only [imp_false] at *
    bv_omega
  all_goals simp

theorem exists_error_decodeFamily8_iff (op : Word) :
    (∃ u, decodeFamily8 op = .error u) ↔ op.toNat % 16 ∈ [0x8, 0x9, 0xA, 0xB, 0xC, 0xD, 0xF] := by
  rw [← toNat_opN]
  unfold decodeFamily8
  split
  case h_10 =>
    refine iff_of_true ⟨_, rfl⟩ ?_
    simp only [imp_false, List.mem_cons, List.not_mem_nil, or_false] at *
    bv_omega
  all_goals
    rename_i hn
    simp [hn]

theorem exists_error_decodeFamilyE_iff (op : Word) :
    (∃ u, decodeFamilyE op = .error u) ↔ op.toNat % 256 ∉ [0x9E, 0xA1] := by
  rw [← toNat_opNN]
  unfold decodeFamilyE
  split
  case h_3 =>
    refine iff_of_true ⟨_, rfl⟩ ?_
    simp only [imp_false, List.mem_cons, List.not_mem_nil, or_false] at *
    bv_omega
  all_goals
    rename_i hnn
    simp [hnn]

theorem exists_error_decodeFamilyF_iff (op : Word) :
    (∃ u, decodeFamilyF op = .error u) ↔
      op.toNat % 256 ∉ [0x07, 0x0A, 0x15, 0x18, 0x1E, 0x29, 0x33, 0x55, 0x65] := by
  rw [← toNat_opNN]
  unfold decodeFamilyF
  split
  case h_10 =>
    refine iff_of_true ⟨_, rfl⟩ ?_
    simp only [imp_false, List.mem_cons, List.not_mem_nil, or_false] at *
    bv_omega
  all_goals
    rename_i hnn
    simp [hnn]

end Sys2Proof
end

section
/-! PROOFS. The step of the core, running and halted (spec 30_encoding.md R56 to R59). -/

namespace Sys2Proof.Machine

open Sys2Proof.Claims

variable {s t : State}

/-! ### What a requested step does -/

/-- A running core performs the instruction at pc (R57). -/
theorem step_of_decodeWord {i : Instr} (hu : nextUnit s = .step) (hc : s.fault.cause = .noFault)
    (hd : decodeWord s.fetch = .ok i) : step s = exec i (started s) :=
  (step_of_nextUnit hu).trans (cycle_of_decodeWord (s := taken s) hc hd)

theorem cycle_of_unknown {u : Unknown} (hc : s.fault.cause = .noFault) (hd : decodeWord s.fetch = .error u) :
    cycle s = .next (skipUnknown s.fetch s.begun) := by
  simp [cycle, State.halted, hc, hd, State.begun]

/-- A running core passes over an unknown opcode (R56). -/
theorem step_of_unknown {u : Unknown} (hu : nextUnit s = .step) (hc : s.fault.cause = .noFault)
    (hd : decodeWord s.fetch = .error u) : step s = .next (skipUnknown s.fetch (started s)) :=
  (step_of_nextUnit hu).trans (cycle_of_unknown (s := taken s) hc hd)

/-- A halted core does nothing (R59). -/
theorem step_of_halted (hu : nextUnit s = .step) (hc : s.fault.cause ≠ .noFault) : step s = .next (taken s) :=
  (step_of_nextUnit hu).trans (cycle_of_halted ((halted_iff (taken s)).2 hc))

/-- A halted core does nothing for as long as steps are requested (R59). -/
theorem run_of_halted (n : Nat) (hc : s.fault.cause ≠ .noFault) (hu : ∀ j < n, unitAt s j = .step) :
    Host.Core.run core n s = .next (taken^[n] s) := by
  induction n generalizing s with
  | zero => rfl
  | succ n ih =>
    have hstep : core.step s = .next (taken s) := step_of_halted (hu 0 n.succ_pos) hc
    have hu' : ∀ j < n, unitAt (taken s) j = .step := fun j hj => hu (j + 1) (Nat.succ_lt_succ hj)
    exact (run_succ_of_next hstep n).trans (ih hc hu')

/-! ### The placed word -/

/-- The word placed at pc is the word fetched there, also where pc + 1 wraps to address 0 (R37, R41). -/
theorem fetch_placeWord (op : Word) (s : State) : (placeWord op s).fetch = op := by
  have hlen : [hiByte op, loByte op].length ≤ Config.memSize := by simp [Config.memSize]
  have hhi : (placeWord op s).memRead s.pc.toNat = hiByte op := memRead_memStore s _ _ hlen 0 Nat.zero_lt_two
  have hlo : (placeWord op s).memRead (s.pc.toNat + 1) = loByte op := memRead_memStore s _ _ hlen 1 Nat.one_lt_two
  calc (placeWord op s).fetch = joinBytes (hiByte op) (loByte op) := congrArg₂ joinBytes hhi hlo
    _ = op := joinBytes_hiByte_loByte op

theorem tableWord_toNat (op : Word) : tableWord 16 op.toNat = op := by
  simp [tableWord, Nat.mod_eq_of_lt op.isLt]

theorem decodeTableWord_toNat {op : Word} {i : Instr} (h : decodeWord op = .ok i) :
    decodeTableWord 16 op.toNat = some i := by
  simp only [decodeTableWord, tableWord_toNat, decode_bytes_of_decodeWord h]

/-! ### The timers -/

/-- FX15 and FX18 load a timer with Vx, and no other instruction writes one (R58, R99, R100). -/
theorem exec_timers {i : Instr} (h : exec i s = .next t) :
    (t.dt = s.dt ∨ ∃ x, i = .ldDtVx x ∧ t.dt = s.reg x) ∧
    (t.st = s.st ∨ ∃ x, i = .ldStVx x ∧ t.st = s.reg x) := by
  obtain ⟨-, -, -, -, hdt, hst, -, -⟩ := Proofs.onlyTheNamedInstructionsWrite i s t h
  constructor
  · by_cases hi : ∃ x, i = .ldDtVx x
    · obtain ⟨x, rfl⟩ := hi
      cases h
      exact .inr ⟨x, rfl, rfl⟩
    · exact .inl (hdt hi)
  · by_cases hi : ∃ x, i = .ldStVx x
    · obtain ⟨x, rfl⟩ := hi
      cases h
      exact .inr ⟨x, rfl, rfl⟩
    · exact .inl (hst hi)

end Sys2Proof.Machine
end

section
/-! PROOFS. The statements about encoding, decoding and the step (spec 30_encoding.md), each settled by the lemmas
before. -/

namespace Sys2Proof.Proofs

open Sys2Proof.Machine Sys2Proof.Claims

/-- Settles O2: an instruction's two bytes are those of its word, which decodes to it. -/
theorem decodeInvertsEncode : Obligations.DecodeInvertsEncode :=
  fun i => ⟨decodeWord_encode i, decode_bytes_of_decodeWord (decodeWord_encode i)⟩

/-- Settles O3, by whether the family is one whose low nibble is ignored. -/
theorem encodeInvertsDecode : Obligations.EncodeInvertsDecode := by
  intro op i h
  split_ifs with hf
  · exact encode_of_decodeWord_of_ignored hf h
  · exact encode_of_decodeWord_of_not_ignored hf h

/-- Settles O4: a word selects a row exactly when it is the decoded row, and a word has one decoded row. -/
theorem wordSelectsItsRow : Obligations.WordSelectsItsRow := by
  refine ⟨length_opcodeTable, fun op r r' hr hr' h h' => ?_, fun op r hr => ?_, rowOf_mem_opcodeTable⟩
  · rw [and_mask_eq_iff_decodedRow hr] at h
    rw [and_mask_eq_iff_decodedRow hr'] at h'
    exact Except.ok.inj (h.symm.trans h')
  · rw [and_mask_eq_iff_decodedRow hr, decodedRow_eq_ok_iff]

/-- Settles O5: the four families with a sub-field by what each refuses; the other twelve refuse nothing. -/
theorem unknownWords : Obligations.UnknownWords := by
  intro op
  simp only [← toNat_opFamily]
  unfold decodeWord
  split
  case h_1 hf => simp [exists_error_decodeFamily0_iff, hf]
  case h_9 hf => simp [exists_error_decodeFamily8_iff, hf]
  case h_15 hf => simp [exists_error_decodeFamilyE_iff, hf]
  case h_16 =>
    have hf : opFamily op = 0xF#4 := by simp only [imp_false] at *; bv_omega
    simp [exists_error_decodeFamilyF_iff, hf]
  all_goals
    rename_i hf
    simp [hf]

/-- Settles O8: by induction on the number of steps, each of which only takes its request. -/
theorem haltedStepsChangeNothing : Obligations.HaltedStepsChangeNothing := fun _ n hc hu => run_of_halted n hc hu

/-- Settles O9: the placed state requests a step, has no fault recorded and fetches the instruction's word. -/
theorem placedWordRunsNext : Obligations.PlacedWordRunsNext := by
  intro s i
  have hd := decodeWord_encode i
  refine ⟨step_of_decodeWord rfl rfl ?_, decodeTableWord_toNat hd⟩
  rwa [State.withFetchWord, tableWord_toNat, fetch_placeWord]

/-- Settles O47: a halted step and an unknown opcode leave the timers alone, and so does every instruction but two. -/
theorem stepNeverTicksTheTimers : Obligations.StepNeverTicksTheTimers := by
  intro s t hu h
  rcases cycle_eq_next ((step_of_nextUnit hu).symm.trans h) with ⟨-, rfl⟩ | ⟨-, i, hd, he⟩ | ⟨-, u, -, rfl⟩
  · exact ⟨.inl rfl, .inl rfl⟩
  · have hi : decodeWord (opAtPc s) = .ok i := hd
    simp only [hi, Except.ok.injEq]
    have htimers := exec_timers he
    exact htimers
  · exact ⟨.inl rfl, .inl rfl⟩

/-- Settles O1: each word is decoded by evaluation. -/
theorem specWordsDecode : Obligations.SpecWordsDecode := by
  unfold Obligations.SpecWordsDecode
  decide

/-- Settles O6: the two bytes at pc are the fetched word. -/
theorem stepRunsDecodedInstruction : Obligations.StepRunsDecodedInstruction :=
  fun _ _ hu hc hd => step_of_decodeWord hu hc (decodeWord_of_decode_pair hd)

/-- Settles O7: the next state is the diagnostic event and the advance, in the started state. -/
theorem unknownOpcodeIsPassedOver : Obligations.UnknownOpcodeIsPassedOver := by
  intro s u hu hc hd
  refine ⟨_, step_of_unknown hu hc hd, rfl, rfl, ?_⟩
  exact ⟨fun _ => rfl, fun _ => rfl, rfl, ⟨rfl, rfl⟩, ⟨rfl, rfl⟩, ⟨fun _ _ => rfl, rfl⟩, rfl, rfl, rfl, rfl, rfl,
    rfl, rfl⟩

end Sys2Proof.Proofs
end

section
/-! PROOFS. The display instructions: the pixels a sprite hits, and what CLS and DRW leave (spec 41_display.md). -/

namespace Sys2Proof

open Claims

variable {op w : Word}

/-! ### Their words (R54) -/

theorem eq_of_and_maskFFFF (h : op &&& 0xFFFF#16 = w) : op = w := by
  rwa [show 0xFFFF#16 = BitVec.allOnes 16 from rfl, BitVec.and_allOnes] at h

theorem decodesAs_cls : DecodesAs 0xFFFF#16 0x00E0#16 (fun _ => .cls) := by
  intro op h
  obtain rfl := eq_of_and_maskFFFF h
  rfl

theorem decodesAs_drw : DecodesAs 0xF000#16 0xD000#16 (fun op => .drw (opX op) (opY op) (opN op)) := by
  intro op h
  have hf : opFamily op = 0xD#4 := opFamily_of_and h
  simp [decodeWord, hf]

end Sys2Proof

namespace Sys2Proof.Machine

open Sys2Proof.Claims

variable {s t : State} {X Y : Byte} {n : Nat}

/-! ### Updates outside the core part of the frame -/

@[simp] theorem coreKept_refl (s : State) : CoreKept s s :=
  ⟨⟨rfl, rfl⟩, ⟨rfl, rfl⟩, ⟨rfl, rfl⟩, rfl, rfl, rfl, rfl, rfl, rfl⟩

@[simp] theorem coreKept_advance_iff : CoreKept s t.advance ↔ CoreKept s t := Iff.rfl

@[simp] theorem coreKept_setReg_iff (r : Nibble) (b : Byte) : CoreKept s (t.setReg r b) ↔ CoreKept s t := Iff.rfl

@[simp] theorem coreKept_setFb_iff (fb : Framebuffer) : CoreKept s (t.setFb fb) ↔ CoreKept s t := Iff.rfl

/-! ### The pixels a sprite hits -/

/-- The columns of a row byte's 1-bits (R62). -/
def rowColumns (row : Byte) : List Nat := (List.range 8).filter (rowBit row)

/-- The pixels DXYN toggles, in the order in which it toggles them (R62, R64). -/
def spritePixels (s : State) (X Y : Byte) (n : Nat) : List Nat :=
  (List.range n).flatMap fun r => (rowColumns (s.memRead (indexed s r))).map (pixelIndex X Y r)

theorem mem_rowColumns {row : Byte} {c : Nat} : c ∈ rowColumns row ↔ c < 8 ∧ row.getLsbD (7 - c) = true := by
  simp [rowColumns, rowBit]

theorem nodup_rowColumns (row : Byte) : (rowColumns row).Nodup := List.nodup_range.filter _

/-- A row has a column exactly when its byte is not 0. -/
theorem exists_mem_rowColumns_iff {row : Byte} : (∃ c, c ∈ rowColumns row) ↔ row ≠ 0#8 := by
  constructor
  · rintro ⟨c, hc⟩ rfl
    simp [mem_rowColumns] at hc
  · intro hrow
    by_contra hnone
    refine hrow (BitVec.eq_of_getLsbD_eq fun k hk => ?_)
    by_contra hbit
    refine hnone ⟨7 - k, mem_rowColumns.2 ⟨by omega, ?_⟩⟩
    rw [show 7 - (7 - k) = k by omega]
    simpa using hbit

theorem mem_spritePixels {p : Nat} :
    p ∈ spritePixels s X Y n ↔ ∃ r < n, ∃ c ∈ rowColumns (s.memRead (indexed s r)), pixelIndex X Y r c = p := by
  simp [spritePixels]

/-- The list holds the pixels that the statements call hit. -/
theorem mem_spritePixels_iff_spriteHits {p : Nat} : p ∈ spritePixels s X Y n ↔ SpriteHits s X Y n p := by
  simp only [mem_spritePixels, mem_rowColumns, and_assoc]
  rfl

theorem lt_of_mem_spritePixels {p : Nat} (hp : p ∈ spritePixels s X Y n) : p < 2048 := by
  obtain ⟨r, -, c, -, rfl⟩ := mem_spritePixels.1 hp
  exact Nat.mod_lt _ (by decide)

/-- A sprite of at most 32 rows does not wrap onto itself: a pixel has one row and one column. -/
theorem pixelIndex_inj {r r' c c' : Nat} (hr : r < 32) (hr' : r' < 32) (hc : c < 8) (hc' : c' < 8)
    (h : pixelIndex X Y r c = pixelIndex X Y r' c') : r = r' ∧ c = c' := by
  simp only [pixelIndex, Config.fbWidth, Config.fbSize] at h
  omega

theorem nodup_spritePixels (hn : n ≤ 32) : (spritePixels s X Y n).Nodup := by
  refine List.nodup_flatMap.2 ⟨fun r hr => ?_, List.nodup_range.pairwise_of_forall_ne fun r hr r' hr' hne => ?_⟩
  · rw [List.mem_range] at hr
    refine (nodup_rowColumns _).map_on fun c hc c' hc' h => ?_
    exact (pixelIndex_inj (by omega) (by omega) (mem_rowColumns.1 hc).1 (mem_rowColumns.1 hc').1 h).2
  · rw [List.mem_range] at hr hr'
    intro p hp hp'
    obtain ⟨c, hc, rfl⟩ := List.mem_map.1 hp
    obtain ⟨c', hc', h⟩ := List.mem_map.1 hp'
    exact hne (pixelIndex_inj (by omega) (by omega) (mem_rowColumns.1 hc).1 (mem_rowColumns.1 hc').1 h.symm).1

/-- The hit pixels depend on memory and I only. -/
theorem spritePixels_congr (hmem : MemoryKept s t) (hi : IndexKept s t) :
    spritePixels t X Y n = spritePixels s X Y n := by
  have hread : ∀ a, t.memRead a = s.memRead a := hmem
  have hindex : t.i = s.i := hi
  simp only [spritePixels, indexed, hread, hindex]

/-- A sprite hits some pixel exactly when one of its rows is not 0. -/
theorem exists_mem_spritePixels_iff :
    (∃ p, p ∈ spritePixels s X Y n) ↔ ∃ r < n, s.memRead (indexed s r) ≠ 0#8 := by
  simp only [mem_spritePixels, ← exists_mem_rowColumns_iff]
  constructor
  · rintro ⟨-, r, hr, c, hc, -⟩
    exact ⟨r, hr, c, hc⟩
  · rintro ⟨r, hr, c, hc⟩
    exact ⟨_, r, hr, c, hc, rfl⟩

/-! ### Drawing them -/

theorem drawSprite_eq_foldl_drawPixel :
    drawSprite X Y n s = (spritePixels s X Y n).foldl drawPixel (s.fb, false) := by
  simp only [drawSprite, drawRow, spritePixels, rowColumns, List.foldl_flatMap, List.foldl_map, List.foldl_filter]

/-- `foldl_drawPixel` at the hit pixels. -/
theorem drawSprite_spec (hn : n ≤ 32) :
    (∀ p < 2048, fbPixel (drawSprite X Y n s).1 p = (s.pixel p ^^ decide (p ∈ spritePixels s X Y n))) ∧
    ((drawSprite X Y n s).2 = true ↔ ∃ p ∈ spritePixels s X Y n, s.pixel p = true) := by
  have h := foldl_drawPixel (spritePixels s X Y n) (nodup_spritePixels hn) (fun _ => lt_of_mem_spritePixels)
    (s.fb, false)
  simpa only [← drawSprite_eq_foldl_drawPixel, State.pixel, Bool.false_eq_true, false_or] using h

/-- The hit pixels are toggled, and no other (R64). -/
theorem fbPixel_drawSprite (hn : n ≤ 32) {p : Nat} (hp : p < 2048) :
    fbPixel (drawSprite X Y n s).1 p = (s.pixel p ^^ decide (p ∈ spritePixels s X Y n)) :=
  (drawSprite_spec hn).1 p hp

/-- The collision is that a hit pixel was set before the drawing (R64). -/
theorem drawSprite_collided_iff (hn : n ≤ 32) :
    (drawSprite X Y n s).2 = true ↔ ∃ p ∈ spritePixels s X Y n, s.pixel p = true :=
  (drawSprite_spec hn).2

/-! ### The instructions -/

theorem exec_cls (s : State) : exec .cls s = .next (s.setFb fbBlank).advance := rfl

/-- The state after DXYN (R64). -/
def State.afterDrw (s : State) (x y n : Nibble) : State :=
  ((s.setFb (drawSprite (s.reg x) (s.reg y) n.toNat s).1).setVF
    (flagByte (drawSprite (s.reg x) (s.reg y) n.toNat s).2)).advance

/-- The pixels that DXYN toggles in a state. -/
def drwPixels (s : State) (x y n : Nibble) : List Nat := spritePixels s (s.reg x) (s.reg y) n.toNat

theorem flagByte_eq_one_iff (b : Bool) : flagByte b = 1#8 ↔ b = true := by cases b <;> decide

section Drw

variable (s : State) (x y n : Nibble)

theorem exec_drw : exec (.drw x y n) s = .next (s.afterDrw x y n) := rfl

theorem afterDrw_pixel {p : Nat} (hp : p < 2048) :
    (s.afterDrw x y n).pixel p = (s.pixel p ^^ decide (p ∈ drwPixels s x y n)) :=
  fbPixel_drawSprite (by omega) hp

/-- VF is 0 or 1, and tells whether a hit pixel was set (R15, R64). -/
theorem afterDrw_vf :
    (s.afterDrw x y n).reg 0xF#4 = flagByte (decide (∃ p ∈ drwPixels s x y n, s.pixel p = true)) := by
  have hcollided : (drawSprite (s.reg x) (s.reg y) n.toNat s).2 =
      decide (∃ p ∈ drwPixels s x y n, s.pixel p = true) :=
    Bool.eq_iff_iff.2 ((drawSprite_collided_iff (by omega)).trans decide_eq_true_iff.symm)
  rw [← hcollided]
  exact reg_vf_setVF_advance _ _

@[simp] theorem afterDrw_drawFlag : (s.afterDrw x y n).drawFlag = true := rfl
@[simp] theorem afterDrw_pc : (s.afterDrw x y n).pc = s.pc + 2#16 := rfl

theorem afterDrw_reg {r : Nibble} (hr : r ≠ 0xF#4) : (s.afterDrw x y n).reg r = s.reg r := by
  simp [State.afterDrw, vf, hr]

theorem memoryKept_afterDrw : MemoryKept s (s.afterDrw x y n) := fun _ => rfl
theorem indexKept_afterDrw : IndexKept s (s.afterDrw x y n) := rfl
theorem coreKept_afterDrw : CoreKept s (s.afterDrw x y n) := by simp [State.afterDrw]
theorem drawsKept_afterDrw : DrawsKept s (s.afterDrw x y n) := rfl

/-- A second draw at the same registers hits the same pixels. -/
theorem drwPixels_afterDrw (hx : x ≠ 0xF#4) (hy : y ≠ 0xF#4) :
    drwPixels (s.afterDrw x y n) x y n = drwPixels s x y n := by
  rw [drwPixels, afterDrw_reg s x y n hx, afterDrw_reg s x y n hy]
  exact spritePixels_congr (memoryKept_afterDrw s x y n) (indexKept_afterDrw s x y n)

/-- A second draw toggles every hit pixel back (R64). -/
theorem afterDrw_afterDrw_pixel (hx : x ≠ 0xF#4) (hy : y ≠ 0xF#4) {p : Nat} (hp : p < 2048) :
    ((s.afterDrw x y n).afterDrw x y n).pixel p = s.pixel p := by
  rw [afterDrw_pixel _ x y n hp, drwPixels_afterDrw s x y n hx hy, afterDrw_pixel s x y n hp, Bool.xor_assoc,
    Bool.xor_self, Bool.xor_false]

/-- The second draw finds a hit pixel set exactly where the first found it clear. -/
theorem afterDrw_afterDrw_vf (hx : x ≠ 0xF#4) (hy : y ≠ 0xF#4) :
    ((s.afterDrw x y n).afterDrw x y n).reg 0xF#4 =
      flagByte (decide (∃ p ∈ drwPixels s x y n, s.pixel p = false)) := by
  have hset : (∃ p ∈ drwPixels s x y n, (s.afterDrw x y n).pixel p = true) ↔
      ∃ p ∈ drwPixels s x y n, s.pixel p = false :=
    exists_congr fun p => and_congr_right fun hp => by
      simp [afterDrw_pixel s x y n (lt_of_mem_spritePixels hp), hp]
  simp only [afterDrw_vf, drwPixels_afterDrw s x y n hx hy, hset]

/-- What the statements say of the hit pixels, said of the list. -/
theorem exists_spriteHits_iff (P : Nat → Prop) :
    (∃ p < 2048, SpriteHits s (s.reg x) (s.reg y) n.toNat p ∧ P p) ↔ ∃ p ∈ drwPixels s x y n, P p := by
  simp only [← mem_spritePixels_iff_spriteHits]
  exact exists_congr fun p => ⟨fun ⟨_, hp, h⟩ => ⟨hp, h⟩, fun ⟨hp, h⟩ => ⟨lt_of_mem_spritePixels hp, hp, h⟩⟩

end Drw

end Sys2Proof.Machine
end

section
/-! PROOFS. The statements about the display (spec 41_display.md), each settled by the lemmas before. -/

namespace Sys2Proof.Proofs

open Sys2Proof.Machine Sys2Proof.Claims

/-- Settles O14: the hit pixels are drawn one by one, and no two of them are the same pixel. -/
theorem drwXorsSpriteAndFlagsCollision : Obligations.DrwXorsSpriteAndFlagsCollision := by
  refine ⟨decodesAs_drw, fun x y n s => ⟨_, exec_drw s x y n, fun p hp hhit => ?_, fun p hp hmiss => ?_,
    fun hset => ?_, fun hclear => ?_, fun _ => afterDrw_reg s x y n, afterDrw_drawFlag s x y n,
    afterDrw_pc s x y n, memoryKept_afterDrw s x y n, indexKept_afterDrw s x y n, coreKept_afterDrw s x y n,
    drawsKept_afterDrw s x y n⟩⟩
  · have hmem : p ∈ drwPixels s x y n := mem_spritePixels_iff_spriteHits.2 hhit
    simp [afterDrw_pixel s x y n hp, hmem]
  · have hmem : p ∉ drwPixels s x y n := fun h => hmiss (mem_spritePixels_iff_spriteHits.1 h)
    simp [afterDrw_pixel s x y n hp, hmem]
  · rw [exists_spriteHits_iff] at hset
    rw [afterDrw_vf, decide_eq_true hset]
    rfl
  · rw [exists_spriteHits_iff] at hclear
    rw [afterDrw_vf, decide_eq_false hclear]
    rfl

/-- Settles O15: the second draw hits the same pixels, each of which the first has toggled. -/
theorem drawingTwiceRestoresTheScreen : Obligations.DrawingTwiceRestoresTheScreen := by
  intro x y n s hx hy
  have hvf : ((s.afterDrw x y n).afterDrw x y n).reg 0xF#4 = 1#8 ↔ ∃ p ∈ drwPixels s x y n, s.pixel p = false := by
    rw [afterDrw_afterDrw_vf s x y n hx hy, flagByte_eq_one_iff, decide_eq_true_iff]
  refine ⟨_, _, exec_drw s x y n, exec_drw _ x y n, fun p hp => afterDrw_afterDrw_pixel s x y n hx hy hp, ?_,
    fun hblank => ⟨?_, ?_⟩⟩
  · rw [exists_spriteHits_iff, hvf]
  · have hclear : ¬ ∃ p ∈ drwPixels s x y n, s.pixel p = true := by
      rintro ⟨p, hp, hset⟩
      simp [hblank p (lt_of_mem_spritePixels hp)] at hset
    rw [afterDrw_vf, decide_eq_false hclear]
    rfl
  · rw [hvf, ← exists_mem_spritePixels_iff]
    exact exists_congr fun p => and_iff_left_of_imp fun hp => hblank p (lt_of_mem_spritePixels hp)

/-- Settles O13: CLS writes the blank framebuffer. -/
theorem clsClearsEveryPixel : Obligations.ClsClearsEveryPixel :=
  ⟨decodesAs_cls, fun s => ⟨_, exec_cls s, fun p _ => fbPixel_fbBlank p, rfl, rfl, fun _ => rfl, fun _ => rfl, rfl,
    by simp, rfl⟩⟩

end Sys2Proof.Proofs
end

section
/-! PROOFS. The control instructions: their words, the jumps, the skips, the call stack (spec 42_control.md). -/

namespace Sys2Proof

open Claims

/-! ### Their words (R54) -/

/-- A family that the decoder does not look further into is selected by the mask 0xF000 (R53). -/
theorem decodesAs_of_opFamily {w : Word} (f : Nibble) {instr : Word → Instr} (hw : opFamily w = f)
    (hdecode : ∀ op, opFamily op = f → decodeWord op = .ok (instr op)) : DecodesAs 0xF000#16 w instr :=
  fun op h => hdecode op ((opFamily_of_and h).trans hw)

theorem decodesAs_ret : DecodesAs 0xFFFF#16 0x00EE#16 (fun _ => .ret) := by
  intro op h
  obtain rfl := eq_of_and_maskFFFF h
  rfl

theorem decodesAs_jp : DecodesAs 0xF000#16 0x1000#16 (fun op => .jp (opNNN op)) :=
  decodesAs_of_opFamily 0x1#4 rfl fun op hf => by simp [decodeWord, hf]

theorem decodesAs_call : DecodesAs 0xF000#16 0x2000#16 (fun op => .call (opNNN op)) :=
  decodesAs_of_opFamily 0x2#4 rfl fun op hf => by simp [decodeWord, hf]

theorem decodesAs_seImm : DecodesAs 0xF000#16 0x3000#16 (fun op => .seImm (opX op) (opNN op)) :=
  decodesAs_of_opFamily 0x3#4 rfl fun op hf => by simp [decodeWord, hf]

theorem decodesAs_sneImm : DecodesAs 0xF000#16 0x4000#16 (fun op => .sneImm (opX op) (opNN op)) :=
  decodesAs_of_opFamily 0x4#4 rfl fun op hf => by simp [decodeWord, hf]

theorem decodesAs_seReg : DecodesAs 0xF000#16 0x5000#16 (fun op => .seReg (opX op) (opY op)) :=
  decodesAs_of_opFamily 0x5#4 rfl fun op hf => by simp [decodeWord, hf]

theorem decodesAs_sneReg : DecodesAs 0xF000#16 0x9000#16 (fun op => .sneReg (opX op) (opY op)) :=
  decodesAs_of_opFamily 0x9#4 rfl fun op hf => by simp [decodeWord, hf]

theorem decodesAs_jpV0 : DecodesAs 0xF000#16 0xB000#16 (fun op => .jpV0 (opNNN op)) :=
  decodesAs_of_opFamily 0xB#4 rfl fun op hf => by simp [decodeWord, hf]

end Sys2Proof

namespace Sys2Proof.Machine

open Sys2Proof.Claims

variable {s t : State}

/-! ### The jumps (R66, R72) -/

theorem onlyPc_setPc (s : State) (w : Word) : OnlyPc s (s.setPc w) :=
  ⟨fun _ => rfl, fun _ => rfl, rfl, ⟨fun _ _ => rfl, rfl⟩, coreKept_refl s, rfl⟩

theorem toNat_absolute (nnn : Addr12) : (absolute nnn).toNat = nnn.toNat := by
  simp only [absolute, BitVec.toNat_setWidth]
  omega

/-- A byte and a 12-bit offset add up to less than 2^16, so the target of BNNN is the exact sum. -/
theorem toNat_v0Relative (s : State) (nnn : Addr12) :
    (v0Relative s nnn).toNat = (s.reg 0x0#4).toNat + nnn.toNat := by
  simp only [v0Relative, BitVec.toNat_add, BitVec.toNat_setWidth, toNat_absolute]
  omega

theorem exec_jp (nnn : Addr12) (s : State) : exec (.jp nnn) s = .next (s.setPc (absolute nnn)) := rfl

theorem exec_jpV0 (nnn : Addr12) (s : State) : exec (.jpV0 nnn) s = .next (s.setPc (v0Relative s nnn)) := rfl

/-! ### The skips (R68 to R71) -/

theorem exec_seImm (x : Nibble) (nn : Byte) (s : State) :
    exec (.seImm x nn) s = .next (s.skipIf (s.reg x == nn)) := rfl

theorem exec_sneImm (x : Nibble) (nn : Byte) (s : State) :
    exec (.sneImm x nn) s = .next (s.skipIf (s.reg x != nn)) := rfl

theorem exec_seReg (x y : Nibble) (s : State) :
    exec (.seReg x y) s = .next (s.skipIf (s.reg x == s.reg y)) := rfl

theorem exec_sneReg (x y : Nibble) (s : State) :
    exec (.sneReg x y) s = .next (s.skipIf (s.reg x != s.reg y)) := rfl

/-- What a skip instruction does, in terms of the condition that its Boolean test decides. -/
theorem exec_skip {i : Instr} {c : Bool} {p : Prop} [Decidable p] (he : exec i s = .next (s.skipIf c))
    (hc : c = true ↔ p) :
    ∃ t, exec i s = .next t ∧ t.pc = (if p then s.pc + 4#16 else s.pc + 2#16) ∧ OnlyPc s t :=
  ⟨_, he, if_congr hc rfl rfl, onlyPc_setPc s _⟩

/-! ### The call stack (R65, R67) -/

/-- Nothing but the call stack, its pointer and pc may have changed. -/
def OnlyStackAndPc (s t : State) : Prop :=
  RegsKept s t ∧ MemoryKept s t ∧ IndexKept s t ∧ DisplayKept s t ∧ TimersKept s t ∧ StatusKept s t ∧
    HostKept s t ∧ DrawsKept s t

theorem onlyStackAndPc_update (s : State) (stack : Vector Word 16) (sp : Fin 17) (pc : Word) :
    OnlyStackAndPc s (({ s with stack := stack, sp := sp } : State).setPc pc) :=
  ⟨fun _ => rfl, fun _ => rfl, rfl, ⟨fun _ _ => rfl, rfl⟩, ⟨rfl, rfl⟩, ⟨rfl, rfl⟩,
    ⟨rfl, rfl, rfl, rfl, rfl, rfl⟩, rfl⟩

theorem exec_ret_of_nonempty {n : Fin 16} (hsp : s.sp.val = n.val + 1) :
    exec .ret s = .next (({ s with sp := n.castSucc } : State).setPc (s.stack[n] + 2#16)) := by
  obtain ⟨t, h⟩ := exec_total .ret s
  rcases exec_ret_cases h with ⟨h0, -⟩ | ⟨k, hk, hsp', rfl⟩
  · omega
  · obtain rfl : k = n.val := by omega
    exact h

theorem exec_ret_of_empty (hsp : s.sp.val = 0) :
    exec .ret s = .next (s.takeFault .stackUnderflow 0x00EE#16) := by
  obtain ⟨t, h⟩ := exec_total .ret s
  rcases exec_ret_cases h with ⟨-, rfl⟩ | ⟨k, -, hsp', -⟩
  · exact h
  · omega

theorem exec_call_of_room (nnn : Addr12) {n : Fin 16} (hsp : s.sp.val = n.val) :
    exec (.call nnn) s =
      .next (({ s with stack := s.stack.set n.val s.pc, sp := n.succ } : State).setPc (absolute nnn)) := by
  obtain ⟨t, h⟩ := exec_total (.call nnn) s
  rcases exec_call_cases h with ⟨h16, -⟩ | ⟨hs, rfl⟩
  · omega
  · simp only [h, hsp, Fin.succ]

/-- A call that faults records the word it was decoded from: no bit of 2NNN is lost in decoding. -/
theorem exec_call_of_full {nnn : Addr12} {op : Word} (hd : decodeWord op = .ok (.call nnn))
    (hsp : s.sp.val = 16) : exec (.call nnn) s = .next (s.takeFault .stackOverflow op) := by
  have hop : encode (.call nnn) = op := encode_eq_of_faultOf (s := s) hd (by simp [faultOf, hsp])
  obtain ⟨t, h⟩ := exec_total (.call nnn) s
  rcases exec_call_cases h with ⟨-, rfl⟩ | ⟨hs, -⟩
  · rw [h, hop]
  · omega

/-- The entry pushed is the one at the old pointer; the others stay (R18, R67). -/
theorem getElem_stack_set (stack : Vector Word 16) (n j : Fin 16) (w : Word) :
    (stack.set n.val w)[j] = if j = n then w else stack[j] := by
  simp only [Fin.getElem_fin, Vector.getElem_set, Fin.ext_iff, eq_comm (a := n.val)]

end Sys2Proof.Machine
end

section
/-! PROOFS. The statements about the control instructions (spec 42_control.md), each settled by the lemmas before. -/

namespace Sys2Proof.Proofs

open Sys2Proof.Machine Sys2Proof.Claims

/-- Settles O16: a pop hands back the entry below the pointer, or there is none and the underflow is recorded. -/
theorem retReturnsAfterTheCall : Obligations.RetReturnsAfterTheCall :=
  ⟨decodesAs_ret,
   fun s _ hsp => ⟨_, exec_ret_of_nonempty hsp, rfl, rfl, rfl, onlyStackAndPc_update s _ _ _⟩,
   fun _ hsp => exec_ret_of_empty hsp⟩

/-- Settles O17: the target is the zero-extended address field. -/
theorem jpJumps : Obligations.JpJumps :=
  ⟨decodesAs_jp, fun nnn s => ⟨_, exec_jp nnn s, toNat_absolute nnn, onlyPc_setPc s _⟩⟩

/-- Settles O18: a push writes the entry at the pointer, or there is no room and the overflow is recorded with the
call's own word. -/
theorem callPushesItsOwnAddress : Obligations.CallPushesItsOwnAddress :=
  ⟨decodesAs_call,
   fun nnn s n hsp => ⟨_, exec_call_of_room nnn hsp, toNat_absolute nnn, rfl,
     fun j => getElem_stack_set s.stack n j s.pc, onlyStackAndPc_update s _ _ _⟩,
   fun _ _ _ hd hsp => exec_call_of_full hd hsp⟩

/-- Settles O19: both are skips on a test of Vx against the immediate. -/
theorem skipsOnImmediate : Obligations.SkipsOnImmediate :=
  ⟨decodesAs_seImm, decodesAs_sneImm,
   fun x nn s => exec_skip (exec_seImm x nn s) beq_iff_eq,
   fun x nn s => exec_skip (exec_sneImm x nn s) bne_iff_ne⟩

/-- Settles O20: both are skips on a test of Vx against Vy; the decoder does not look at the low nibble. -/
theorem skipsOnRegisters : Obligations.SkipsOnRegisters :=
  ⟨decodesAs_seReg, decodesAs_sneReg,
   fun x y s => exec_skip (exec_seReg x y s) beq_iff_eq,
   fun x y s => exec_skip (exec_sneReg x y s) bne_iff_ne⟩

/-- Settles O21: the 16-bit sum of V0 and the offset does not wrap. -/
theorem jpV0JumpsRelativeToV0 : Obligations.JpV0JumpsRelativeToV0 :=
  ⟨decodesAs_jpV0, fun nnn s => ⟨_, exec_jpV0 nnn s, toNat_v0Relative s nnn, onlyPc_setPc s _⟩⟩

end Sys2Proof.Proofs
end

section
/-! PROOFS. The register loads and the ALU: their words, the writes of one register with and without a flag, and
the numbers they compute (spec 43_alu.md). -/

namespace Sys2Proof

open Claims

/-! ### Their words (R54) -/

/-- An instruction of family 8 is selected by the mask 0xF00F: family and low nibble (R53). -/
theorem decodesAs_of_opN {w : Word} (n : Nibble) {instr : Word → Instr} (hfam : opFamily w = 0x8#4)
    (hw : opN w = n) (hdecode : ∀ op, opN op = n → decodeFamily8 op = .ok (instr op)) :
    DecodesAs 0xF00F#16 w instr := by
  intro op h
  obtain ⟨hf, hn⟩ := fields_of_andF00F h
  have h8 : decodeWord op = decodeFamily8 op := by simp [decodeWord, hf, hfam]
  rw [h8]
  exact hdecode op (hn.trans hw)

theorem decodesAs_ldImm : DecodesAs 0xF000#16 0x6000#16 (fun op => .ldImm (opX op) (opNN op)) :=
  decodesAs_of_opFamily 0x6#4 rfl fun op hf => by simp [decodeWord, hf]

theorem decodesAs_addImm : DecodesAs 0xF000#16 0x7000#16 (fun op => .addImm (opX op) (opNN op)) :=
  decodesAs_of_opFamily 0x7#4 rfl fun op hf => by simp [decodeWord, hf]

theorem decodesAs_rnd : DecodesAs 0xF000#16 0xC000#16 (fun op => .rnd (opX op) (opNN op)) :=
  decodesAs_of_opFamily 0xC#4 rfl fun op hf => by simp [decodeWord, hf]

theorem decodesAs_ldReg : DecodesAs 0xF00F#16 0x8000#16 (fun op => .ldReg (opX op) (opY op)) :=
  decodesAs_of_opN 0x0#4 rfl rfl fun op hn => by simp [decodeFamily8, hn]

theorem decodesAs_orReg : DecodesAs 0xF00F#16 0x8001#16 (fun op => .orReg (opX op) (opY op)) :=
  decodesAs_of_opN 0x1#4 rfl rfl fun op hn => by simp [decodeFamily8, hn]

theorem decodesAs_andReg : DecodesAs 0xF00F#16 0x8002#16 (fun op => .andReg (opX op) (opY op)) :=
  decodesAs_of_opN 0x2#4 rfl rfl fun op hn => by simp [decodeFamily8, hn]

theorem decodesAs_xorReg : DecodesAs 0xF00F#16 0x8003#16 (fun op => .xorReg (opX op) (opY op)) :=
  decodesAs_of_opN 0x3#4 rfl rfl fun op hn => by simp [decodeFamily8, hn]

theorem decodesAs_addReg : DecodesAs 0xF00F#16 0x8004#16 (fun op => .addReg (opX op) (opY op)) :=
  decodesAs_of_opN 0x4#4 rfl rfl fun op hn => by simp [decodeFamily8, hn]

theorem decodesAs_sub : DecodesAs 0xF00F#16 0x8005#16 (fun op => .sub (opX op) (opY op)) :=
  decodesAs_of_opN 0x5#4 rfl rfl fun op hn => by simp [decodeFamily8, hn]

theorem decodesAs_shr : DecodesAs 0xF00F#16 0x8006#16 (fun op => .shr (opX op) (opY op)) :=
  decodesAs_of_opN 0x6#4 rfl rfl fun op hn => by simp [decodeFamily8, hn]

theorem decodesAs_subn : DecodesAs 0xF00F#16 0x8007#16 (fun op => .subn (opX op) (opY op)) :=
  decodesAs_of_opN 0x7#4 rfl rfl fun op hn => by simp [decodeFamily8, hn]

theorem decodesAs_shl : DecodesAs 0xF00F#16 0x800E#16 (fun op => .shl (opX op) (opY op)) :=
  decodesAs_of_opN 0xE#4 rfl rfl fun op hn => by simp [decodeFamily8, hn]

end Sys2Proof

namespace Sys2Proof.Machine

open Sys2Proof.Claims

/-! ### The numbers computed (R80 to R84) -/

theorem flagByte_carry (a b : Byte) :
    flagByte (carry a b) = if a.toNat + b.toNat > 255 then 1#8 else 0#8 :=
  if_congr decide_eq_true_iff rfl rfl

theorem flagByte_notBorrow (a b : Byte) :
    flagByte (notBorrow a b) = if a.toNat > b.toNat then 1#8 else 0#8 :=
  if_congr decide_eq_true_iff rfl rfl

theorem toNat_flagByte (b : Bool) : (flagByte b).toNat = b.toNat := by cases b <;> rfl

theorem toNat_sub_eq_emod (a b : Byte) : ((a - b).toNat : Int) = (a.toNat - b.toNat : Int) % 256 := by
  rw [BitVec.toNat_sub]
  omega

theorem toNat_shiftedOutRight (a : Byte) : (shiftedOutRight a).toNat = a.toNat % 2 := by
  rw [shiftedOutRight, BitVec.getLsbD, Nat.toNat_testBit, Nat.pow_zero, Nat.div_one]

theorem toNat_shiftedOutLeft (a : Byte) : (shiftedOutLeft a).toNat = a.toNat / 128 := by
  rw [shiftedOutLeft, BitVec.getLsbD, Nat.toNat_testBit]
  omega

theorem toNat_ushiftRight_one (a : Byte) : (a >>> 1).toNat = a.toNat / 2 := by
  rw [BitVec.toNat_ushiftRight, Nat.shiftRight_one]

theorem toNat_shiftLeft_one (a : Byte) : (a <<< 1).toNat = 2 * a.toNat % 256 := by
  rw [BitVec.toNat_shiftLeft, Nat.shiftLeft_eq, Nat.pow_one, Nat.mul_comm]

/-! ### Updates of registers and pc keep the frame -/

section Frame

variable {s t : State}

@[simp] theorem onlyRegsAndPc_refl (s : State) : OnlyRegsAndPc s s :=
  ⟨fun _ => rfl, rfl, ⟨fun _ _ => rfl, rfl⟩, coreKept_refl s, rfl⟩

@[simp] theorem onlyRegsAndPc_advance_iff : OnlyRegsAndPc s t.advance ↔ OnlyRegsAndPc s t := Iff.rfl

@[simp] theorem onlyRegsAndPc_setReg_iff (r : Nibble) (b : Byte) :
    OnlyRegsAndPc s (t.setReg r b) ↔ OnlyRegsAndPc s t := Iff.rfl

@[simp] theorem coreKept_drawn_iff : CoreKept s t.drawn ↔ CoreKept s t := Iff.rfl

end Frame

/-! ### The instructions -/

section Instructions

variable (x y : Nibble) (nn : Byte) (s : State)

theorem exec_ldImm : exec (.ldImm x nn) s = .next (s.setReg x nn).advance := rfl

theorem exec_addImm : exec (.addImm x nn) s = .next (s.setReg x (s.reg x + nn)).advance := rfl

theorem exec_ldReg : exec (.ldReg x y) s = .next (s.setReg x (s.reg y)).advance := rfl

theorem exec_orReg : exec (.orReg x y) s = .next (s.setReg x (s.reg x ||| s.reg y)).advance := rfl

theorem exec_andReg : exec (.andReg x y) s = .next (s.setReg x (s.reg x &&& s.reg y)).advance := rfl

theorem exec_xorReg : exec (.xorReg x y) s = .next (s.setReg x (s.reg x ^^^ s.reg y)).advance := rfl

theorem exec_addReg : exec (.addReg x y) s =
    .next ((s.setReg x (s.reg x + s.reg y)).setVF (flagByte (carry (s.reg x) (s.reg y)))).advance := rfl

theorem exec_sub : exec (.sub x y) s =
    .next ((s.setReg x (s.reg x - s.reg y)).setVF (flagByte (notBorrow (s.reg x) (s.reg y)))).advance := rfl

theorem exec_subn : exec (.subn x y) s =
    .next ((s.setReg x (s.reg y - s.reg x)).setVF (flagByte (notBorrow (s.reg y) (s.reg x)))).advance := rfl

theorem exec_shr : exec (.shr x y) s =
    .next (((s.setReg x (s.reg y >>> 1)).setReg y (s.reg y >>> 1)).setVF
      (flagByte (shiftedOutRight (s.reg y)))).advance := rfl

theorem exec_shl : exec (.shl x y) s =
    .next (((s.setReg x (s.reg y <<< 1)).setReg y (s.reg y <<< 1)).setVF
      (flagByte (shiftedOutLeft (s.reg y)))).advance := rfl

theorem exec_rnd : exec (.rnd x nn) s = .next (s.setReg x (Config.rnd s.draws &&& nn)).drawn.advance := rfl

end Instructions

/-! ### What the shapes of their outcomes come to -/

section Shapes

variable {s : State} {i : Instr} {x y : Nibble} {b : Byte} {flag : Bool}

/-- One register is written, and no flag (R74 to R79). -/
theorem exec_setReg (he : exec i s = .next (s.setReg x b).advance) :
    ∃ t, exec i s = .next t ∧ (∀ r, t.reg r = if r = x then b else s.reg r) ∧ t.pc = s.pc + 2#16 ∧
      OnlyRegsAndPc s t :=
  ⟨_, he, fun r => reg_setReg s x r b, rfl, by simp⟩

/-- One register is written with a byte given bit by bit (R77 to R79). -/
theorem exec_setReg_bits {bit : Nat → Bool} (he : exec i s = .next (s.setReg x b).advance)
    (hb : ∀ k, b.getLsbD k = bit k) :
    ∃ t, exec i s = .next t ∧ (∀ k < 8, (t.reg x).getLsbD k = bit k) ∧ (∀ r, r ≠ x → t.reg r = s.reg r) ∧
      t.pc = s.pc + 2#16 ∧ OnlyRegsAndPc s t := by
  obtain ⟨t, ht, hreg, hframe⟩ := exec_setReg he
  exact ⟨t, ht, fun k _ => by rw [hreg, if_pos rfl, hb], fun r hr => by rw [hreg, if_neg hr], hframe⟩

/-- One register is written, then VF as a flag: VF ends with the flag even as the destination (R15, R87). -/
theorem exec_setReg_setVF (he : exec i s = .next ((s.setReg x b).setVF (flagByte flag)).advance) :
    ∃ t, exec i s = .next t ∧ t.reg 0xF#4 = flagByte flag ∧ (x ≠ 0xF#4 → t.reg x = b) ∧
      (∀ r, r ≠ 0xF#4 → r ≠ x → t.reg r = s.reg r) ∧ t.pc = s.pc + 2#16 ∧ OnlyRegsAndPc s t := by
  refine ⟨_, he, reg_vf_setVF_advance _ _, fun hx => ?_, fun r hvf hx => ?_, rfl, by simp⟩
  · simp [vf, hx]
  · simp [vf, hvf, hx]

/-- 8XY5 and 8XY7 differ only in which operand is the minuend (R81, R83). -/
theorem exec_subtraction {m d : Byte}
    (he : exec i s = .next ((s.setReg x (m - d)).setVF (flagByte (notBorrow m d))).advance) :
    ∃ t, exec i s = .next t ∧ t.reg 0xF#4 = (if m.toNat > d.toNat then 1#8 else 0#8) ∧
      (x ≠ 0xF#4 → ((t.reg x).toNat : Int) = (m.toNat - d.toNat : Int) % 256) ∧
      (∀ r, r ≠ 0xF#4 → r ≠ x → t.reg r = s.reg r) ∧ t.pc = s.pc + 2#16 ∧ OnlyRegsAndPc s t := by
  obtain ⟨t, ht, hvf, hx, hframe⟩ := exec_setReg_setVF he
  exact ⟨t, ht, by rw [hvf, flagByte_notBorrow], fun h => by rw [hx h, toNat_sub_eq_emod], hframe⟩

/-- 8XY6 and 8XYE write one byte to both registers, then VF; they differ in the byte and in the bit shifted out
(R82, R84). -/
theorem exec_shift {out shifted : Nat}
    (he : exec i s = .next (((s.setReg x b).setReg y b).setVF (flagByte flag)).advance)
    (hflag : flag.toNat = out) (hb : b.toNat = shifted) :
    ∃ t, exec i s = .next t ∧ (t.reg 0xF#4).toNat = out ∧
      (∀ r, r ≠ 0xF#4 → (r = x ∨ r = y) → (t.reg r).toNat = shifted) ∧
      (∀ r, r ≠ 0xF#4 → r ≠ x → r ≠ y → t.reg r = s.reg r) ∧ t.pc = s.pc + 2#16 ∧ OnlyRegsAndPc s t := by
  refine ⟨_, he, ?_, fun r hvf hxy => ?_, fun r hvf hx hy => ?_, rfl, by simp⟩
  · rw [reg_vf_setVF_advance, toNat_flagByte, hflag]
  · obtain rfl | rfl := hxy <;> simp [vf, hvf, hb]
  · simp [vf, hvf, hx, hy]

end Shapes

end Sys2Proof.Machine
end

section
/-! PROOFS. The statements about the register loads and the ALU (spec 43_alu.md), each settled by the lemmas before. -/

namespace Sys2Proof.Proofs

open Sys2Proof.Machine Sys2Proof.Claims

/-- Settles O22: both write one register, with the immediate or with Vy. -/
theorem loadsSetTheirRegister : Obligations.LoadsSetTheirRegister :=
  ⟨decodesAs_ldImm, decodesAs_ldReg, fun x nn s => exec_setReg (exec_ldImm x nn s),
   fun x y s => exec_setReg (exec_ldReg x y s)⟩

/-- Settles O23: one register is written, with the sum of bytes. -/
theorem addImmWrapsWithoutFlag : Obligations.AddImmWrapsWithoutFlag := by
  refine ⟨decodesAs_addImm, fun x nn s => ?_⟩
  obtain ⟨t, ht, hreg, hframe⟩ := exec_setReg (exec_addImm x nn s)
  exact ⟨t, ht, fun r hr => by rw [hreg, if_neg hr], by rw [hreg, if_pos rfl, BitVec.toNat_add], hframe⟩

/-- Settles O24: each writes one register, with a byte whose bits are those of the operation. -/
theorem logicIsBitwiseWithoutFlag : Obligations.LogicIsBitwiseWithoutFlag :=
  ⟨decodesAs_orReg, decodesAs_andReg, decodesAs_xorReg, fun x y s =>
    ⟨exec_setReg_bits (exec_orReg x y s) fun _ => BitVec.getLsbD_or,
     exec_setReg_bits (exec_andReg x y s) fun _ => BitVec.getLsbD_and,
     exec_setReg_bits (exec_xorReg x y s) fun _ => BitVec.getLsbD_xor⟩⟩

/-- Settles O25: the sum is written, then the carry of the old bytes. -/
theorem addRegSetsCarry : Obligations.AddRegSetsCarry := by
  refine ⟨decodesAs_addReg, fun x y s => ?_⟩
  obtain ⟨t, ht, hvf, hx, hframe⟩ := exec_setReg_setVF (exec_addReg x y s)
  exact ⟨t, ht, by rw [hvf, flagByte_carry], fun h => by rw [hx h, BitVec.toNat_add], hframe⟩

/-- Settles O26: one subtraction, with Vx or with Vy as the minuend. -/
theorem subtractionsSetNotBorrow : Obligations.SubtractionsSetNotBorrow :=
  ⟨decodesAs_sub, decodesAs_subn, fun x y s => exec_subtraction (exec_sub x y s),
   fun x y s => exec_subtraction (exec_subn x y s)⟩

/-- Settles O27: one shift, to the right with bit 0 shifted out or to the left with bit 7. -/
theorem shiftsWriteBothRegisters : Obligations.ShiftsWriteBothRegisters :=
  ⟨decodesAs_shr, decodesAs_shl,
   fun x y s => exec_shift (exec_shr x y s) (toNat_shiftedOutRight _) (toNat_ushiftRight_one _),
   fun x y s => exec_shift (exec_shl x y s) (toNat_shiftedOutLeft _) (toNat_shiftLeft_one _)⟩

/-- Settles O28: one register is written, with the masked byte of this draw, and the draw is counted. -/
theorem rndMasksTheRandomByte : Obligations.RndMasksTheRandomByte :=
  ⟨decodesAs_rnd, fun x nn s => ⟨_, exec_rnd x nn s, fun r => reg_setReg s x r _, rfl, rfl, fun _ => rfl, rfl,
    ⟨fun _ _ => rfl, rfl⟩, by simp⟩⟩

end Sys2Proof.Proofs
end

section
/-! PROOFS. The index register and the memory instructions: their words, the store of FX33 and FX55, the load of
FX65 (spec 44_index_memory.md). -/

namespace Sys2Proof

open Claims

/-! ### Their words (R54) -/

/-- An instruction that the decoder tells by its low byte is selected by the mask 0xF0FF (R53). -/
theorem decodesAs_of_opNN {w : Word} (f : Nibble) (nn : Byte) {instr : Word → Instr} (hfam : opFamily w = f)
    (hw : opNN w = nn) (hdecode : ∀ op, opFamily op = f → opNN op = nn → decodeWord op = .ok (instr op)) :
    DecodesAs 0xF0FF#16 w instr := by
  intro op h
  obtain ⟨hf, hnn⟩ := fields_of_andF0FF h
  exact hdecode op (hf.trans hfam) (hnn.trans hw)

theorem decodesAs_ldI : DecodesAs 0xF000#16 0xA000#16 (fun op => .ldI (opNNN op)) :=
  decodesAs_of_opFamily 0xA#4 rfl fun op hf => by simp [decodeWord, hf]

theorem decodesAs_addI : DecodesAs 0xF0FF#16 0xF01E#16 (fun op => .addI (opX op)) :=
  decodesAs_of_opNN 0xF#4 0x1E#8 rfl rfl fun op hf hnn => by simp [decodeWord_of_familyF hf, decodeFamilyF, hnn]

theorem decodesAs_ldF : DecodesAs 0xF0FF#16 0xF029#16 (fun op => .ldF (opX op)) :=
  decodesAs_of_opNN 0xF#4 0x29#8 rfl rfl fun op hf hnn => by simp [decodeWord_of_familyF hf, decodeFamilyF, hnn]

theorem decodesAs_ldB : DecodesAs 0xF0FF#16 0xF033#16 (fun op => .ldB (opX op)) :=
  decodesAs_of_opNN 0xF#4 0x33#8 rfl rfl fun op hf hnn => by simp [decodeWord_of_familyF hf, decodeFamilyF, hnn]

theorem decodesAs_ldMemVx : DecodesAs 0xF0FF#16 0xF055#16 (fun op => .ldMemVx (opX op)) :=
  decodesAs_of_opNN 0xF#4 0x55#8 rfl rfl fun op hf hnn => by simp [decodeWord_of_familyF hf, decodeFamilyF, hnn]

theorem decodesAs_ldVxMem : DecodesAs 0xF0FF#16 0xF065#16 (fun op => .ldVxMem (opX op)) :=
  decodesAs_of_opNN 0xF#4 0x65#8 rfl rfl fun op hf hnn => by simp [decodeWord_of_familyF hf, decodeFamilyF, hnn]

end Sys2Proof

namespace Sys2Proof.Machine

open Sys2Proof.Claims

variable {s t : State}

/-! ### The numbers computed (R89 to R93) -/

theorem flagByte_indexOverflow (i : Word) (b : Byte) :
    flagByte (indexOverflow i b) = if i.toNat + b.toNat > 0x0FFF then 1#8 else 0#8 :=
  if_congr decide_eq_true_iff rfl rfl

/-- Five times a byte is less than 2^16. -/
theorem toNat_glyphAddress (b : Byte) : (glyphAddress b).toNat = b.toNat * 5 := by
  rw [glyphAddress, BitVec.toNat_ofNat]
  omega

theorem toNat_indexAfter (s : State) (x : Nibble) :
    (indexAfter s x).toNat = (s.i.toNat + x.toNat + 1) % 65536 := BitVec.toNat_ofNat _ _

/-- Each digit fits in its byte. -/
theorem toNat_decimalDigits (b : Byte) :
    (decimalDigits b).map BitVec.toNat = [b.toNat / 100, b.toNat / 10 % 10, b.toNat % 10] := by
  have hb := b.isLt
  simp only [decimalDigits, List.map_cons, List.map_nil, BitVec.toNat_ofNat, List.cons.injEq, and_true]
  omega

/-! ### Updates of I and of memory keep the frame -/

@[simp] theorem coreKept_setIndex_iff (w : Word) : CoreKept s (t.setIndex w) ↔ CoreKept s t := Iff.rfl

@[simp] theorem coreKept_memStore_iff (a : Nat) (xs : List Byte) : CoreKept s (t.memStore a xs) ↔ CoreKept s t :=
  Iff.rfl

/-! ### Bytes reached through I (R94) -/

/-- The k-th of the bytes stored from I up is read back at I + k. -/
theorem memRead_indexed_memStore (s : State) {xs : List Byte} (hlen : xs.length ≤ Config.memSize) {k : Nat}
    (hk : k < xs.length) : (s.memStore (indexed s 0) xs).memRead (indexed s k) = xs[k] :=
  memRead_memStore s (indexed s 0) xs hlen k hk

/-- An address outside the bytes stored from I up, all taken modulo 4096, reads as before. -/
theorem memRead_memStore_indexed_of_ne (s : State) {xs : List Byte} {a : Nat}
    (ha : ∀ k < xs.length, a % 4096 ≠ indexed s k % 4096) :
    (s.memStore (indexed s 0) xs).memRead a = s.memRead a :=
  memRead_memStore_of_ne s (indexed s 0) xs a ha

/-- The digits FX33 stores, as they are read back. -/
theorem toNat_memRead_indexed_decimalDigits (s : State) (b : Byte) (k : Fin 3) :
    ((s.memStore (indexed s 0) (decimalDigits b)).memRead (indexed s k)).toNat =
      [b.toNat / 100, b.toNat / 10 % 10, b.toNat % 10][k] := by
  have hlen : (decimalDigits b).length ≤ Config.memSize := by simp [decimalDigits, Config.memSize]
  have hk : k < (decimalDigits b).length := k.isLt
  rw [memRead_indexed_memStore s hlen hk, ← List.getElem_map BitVec.toNat (h := by rwa [List.length_map])]
  simp only [toNat_decimalDigits, Fin.getElem_fin]

/-- The bytes from I up that FX65 loads fall on V0 to Vx; the registers above x stay (R93). -/
theorem reg_setRegsFrom_bytesUpTo (s : State) (x r : Nibble) :
    (s.setRegsFrom 0 (bytesUpTo s x)).reg r =
      if r.toNat ≤ x.toNat then s.memRead (indexed s r.toNat) else s.reg r := by
  have hx := x.isLt
  have hlen : (bytesUpTo s x).length = x.toNat + 1 := by simp [bytesUpTo]
  rw [reg_setRegsFrom _ _ _ (by omega)]
  by_cases hr : r.toNat ≤ x.toNat
  · rw [dif_pos (by omega), if_pos hr]
    simp [bytesUpTo]
  · rw [dif_neg (by omega), if_neg hr]

/-! ### The instructions -/

section Instructions

variable (x : Nibble) (nnn : Addr12) (s : State)

theorem exec_ldI : exec (.ldI nnn) s = .next (s.setIndex (absolute nnn)).advance := rfl

theorem exec_ldF : exec (.ldF x) s = .next (s.setIndex (glyphAddress (s.reg x))).advance := rfl

theorem exec_addI : exec (.addI x) s =
    .next ((s.setIndex (BitVec.ofNat 16 (s.i.toNat + (s.reg x).toNat))).setVF
      (flagByte (indexOverflow s.i (s.reg x)))).advance := rfl

theorem exec_ldB : exec (.ldB x) s = .next (s.memStore (indexed s 0) (decimalDigits (s.reg x))).advance := rfl

theorem exec_ldMemVx : exec (.ldMemVx x) s =
    .next ((s.memStore (indexed s 0) (regsUpTo s x)).setIndex (indexAfter s x)).advance := rfl

theorem exec_ldVxMem : exec (.ldVxMem x) s =
    .next ((s.setRegsFrom 0 (bytesUpTo s x)).setIndex (indexAfter s x)).advance := rfl

end Instructions

/-- I is written, and nothing else but pc (R88, R90). -/
theorem exec_setIndex {i : Instr} {w : Word} {n : Nat} (he : exec i s = .next (s.setIndex w).advance)
    (hw : w.toNat = n) :
    ∃ t, exec i s = .next t ∧ t.i.toNat = n ∧ t.pc = s.pc + 2#16 ∧ RegsKept s t ∧ MemoryKept s t ∧
      DisplayKept s t ∧ CoreKept s t ∧ DrawsKept s t :=
  ⟨_, he, hw, rfl, fun _ => rfl, fun _ => rfl, ⟨fun _ _ => rfl, rfl⟩, by simp, rfl⟩

end Sys2Proof.Machine
end

section
/-! PROOFS. The statements about the index register and the memory instructions (spec 44_index_memory.md), each
settled by the lemmas before. -/

namespace Sys2Proof.Proofs

open Sys2Proof.Machine Sys2Proof.Claims

/-- Settles O31: both write I and nothing else. -/
theorem indexLoads : Obligations.IndexLoads :=
  ⟨decodesAs_ldI, decodesAs_ldF, fun nnn s => exec_setIndex (exec_ldI nnn s) (toNat_absolute nnn),
   fun x s => exec_setIndex (exec_ldF x s) (toNat_glyphAddress _)⟩

/-- Settles O32: I is written with the sum, then VF with the flag of the old I and Vx. -/
theorem addIFlagsTheRange : Obligations.AddIFlagsTheRange := by
  refine ⟨decodesAs_addI, fun x s => ⟨_, exec_addI x s, BitVec.toNat_ofNat _ _, ?_, fun r hr => ?_, rfl,
    fun _ => rfl, ⟨fun _ _ => rfl, rfl⟩, by simp, rfl⟩⟩
  · rw [reg_vf_setVF_advance, flagByte_indexOverflow]
  · simp [vf, hr]

/-- Settles O33: the three digits are stored from I up. -/
theorem ldBStoresThreeDigits : Obligations.LdBStoresThreeDigits :=
  ⟨decodesAs_ldB, fun x s =>
    have digit := toNat_memRead_indexed_decimalDigits s (s.reg x)
    ⟨_, exec_ldB x s, digit 0, digit 1, digit 2, fun _ ha => memRead_memStore_indexed_of_ne s ha, rfl,
     fun _ => rfl, rfl, ⟨fun _ _ => rfl, rfl⟩, by simp, rfl⟩⟩

/-- Settles O34: V0 to Vx are stored from I up, each at its own address. -/
theorem ldMemStoresRegisters : Obligations.LdMemStoresRegisters := by
  refine ⟨decodesAs_ldMemVx, fun x s => ⟨_, exec_ldMemVx x s, fun k hk => ?_, fun a ha => ?_,
    toNat_indexAfter s x, rfl, fun _ => rfl, ⟨fun _ _ => rfl, rfl⟩, by simp, rfl⟩⟩
  · have hstored := memRead_memStore_regsUpTo s hk
    rwa [BitVec.ofNat_toNat, BitVec.setWidth_eq] at hstored
  · refine memRead_memStore_indexed_of_ne s fun k hk => ha k ?_
    rw [length_regsUpTo] at hk
    omega

/-- Settles O35: the bytes from I up are loaded into V0 to Vx, and only registers, I and pc are written. -/
theorem ldVxMemLoadsRegisters : Obligations.LdVxMemLoadsRegisters := by
  refine ⟨decodesAs_ldVxMem, fun x s => ⟨_, exec_ldVxMem x s, reg_setRegsFrom_bytesUpTo s x,
    toNat_indexAfter s x, ?_⟩⟩
  rw [setRegsFrom_eq]
  exact ⟨rfl, fun _ => rfl, ⟨fun _ _ => rfl, rfl⟩, coreKept_refl s, rfl⟩

/-- Settles O36, from what FX55 stores (R92) and what FX65 loads (R93): both reach Vr's byte at I + r, and both
leave I + x + 1. -/
theorem storeThenLoadRoundTrips : Obligations.StoreThenLoadRoundTrips := by
  intro x s
  obtain ⟨t, ht, hstored, -, hti, -⟩ := ldMemStoresRegisters.2 x s
  refine ⟨t, ht, fun u hi hmem => ?_⟩
  obtain ⟨w, hw, hloaded, hwi, -⟩ := ldVxMemLoadsRegisters.2 x u
  have hindexed : ∀ k, indexed u k = indexed s k := fun k => by rw [indexed, indexed, hi]
  refine ⟨w, hw, BitVec.eq_of_toNat_eq (by rw [hwi, hti, hi]), fun r hr => ?_⟩
  calc w.reg r = u.memRead (indexed u r.toNat) := by rw [hloaded, if_pos hr]
    _ = t.memRead (indexed s r.toNat) := by rw [hindexed, hmem]
    _ = s.reg r := hstored r hr

end Sys2Proof.Proofs
end

section
/-! PROOFS. The key and timer instructions: their words, the key numbers, the wait for a key, the timer writes
(spec 45_keys_timers.md). -/

namespace Sys2Proof

open Claims

/-! ### Their words (R54) -/

theorem decodesAs_skp : DecodesAs 0xF0FF#16 0xE09E#16 (fun op => .skp (opX op)) :=
  decodesAs_of_opNN 0xE#4 0x9E#8 rfl rfl fun op hf hnn => by simp [decodeWord, hf, decodeFamilyE, hnn]

theorem decodesAs_sknp : DecodesAs 0xF0FF#16 0xE0A1#16 (fun op => .sknp (opX op)) :=
  decodesAs_of_opNN 0xE#4 0xA1#8 rfl rfl fun op hf hnn => by simp [decodeWord, hf, decodeFamilyE, hnn]

theorem decodesAs_ldVxDt : DecodesAs 0xF0FF#16 0xF007#16 (fun op => .ldVxDt (opX op)) :=
  decodesAs_of_opNN 0xF#4 0x07#8 rfl rfl fun op hf hnn => by simp [decodeWord_of_familyF hf, decodeFamilyF, hnn]

theorem decodesAs_ldVxK : DecodesAs 0xF0FF#16 0xF00A#16 (fun op => .ldVxK (opX op)) :=
  decodesAs_of_opNN 0xF#4 0x0A#8 rfl rfl fun op hf hnn => by simp [decodeWord_of_familyF hf, decodeFamilyF, hnn]

theorem decodesAs_ldDtVx : DecodesAs 0xF0FF#16 0xF015#16 (fun op => .ldDtVx (opX op)) :=
  decodesAs_of_opNN 0xF#4 0x15#8 rfl rfl fun op hf hnn => by simp [decodeWord_of_familyF hf, decodeFamilyF, hnn]

theorem decodesAs_ldStVx : DecodesAs 0xF0FF#16 0xF018#16 (fun op => .ldStVx (opX op)) :=
  decodesAs_of_opNN 0xF#4 0x18#8 rfl rfl fun op hf hnn => by simp [decodeWord_of_familyF hf, decodeFamilyF, hnn]

end Sys2Proof

namespace Sys2Proof.Machine

open Sys2Proof.Claims

variable {s : State} {x : Nibble} {op : Word}

/-! ### The skips on a key (R95, R96) -/

theorem exec_skp_of_le (hx : (s.reg x).toNat ≤ 15) :
    exec (.skp x) s = .next (s.skipIf (keyDown s.key (s.reg x).toNat)) := if_neg hx.not_gt

theorem exec_sknp_of_le (hx : (s.reg x).toNat ≤ 15) :
    exec (.sknp x) s = .next (s.skipIf (!keyDown s.key (s.reg x).toNat)) := if_neg hx.not_gt

/-- The fault records the word the instruction was decoded from: no bit of EX9E is lost in decoding. -/
theorem exec_skp_of_gt (hx : 15 < (s.reg x).toNat) (hd : decodeWord op = .ok (.skp x)) :
    exec (.skp x) s = .next (s.takeFault .keyFault op) := by
  rw [← encode_eq_of_faultOf (s := s) hd (by simp [faultOf, hx])]
  exact if_pos hx

/-- The fault records the word the instruction was decoded from: no bit of EXA1 is lost in decoding. -/
theorem exec_sknp_of_gt (hx : 15 < (s.reg x).toNat) (hd : decodeWord op = .ok (.sknp x)) :
    exec (.sknp x) s = .next (s.takeFault .keyFault op) := by
  rw [← encode_eq_of_faultOf (s := s) hd (by simp [faultOf, hx])]
  exact if_pos hx

/-! ### The wait for a key (R98) -/

theorem mem_keysDown {keys : Keys} {k : Nat} : k ∈ keysDown keys ↔ k < 16 ∧ keys.getLsbD k = true := by
  simp [keysDown, keyDown]

/-- Whatever the free value, the key picked is one of those it is picked from (log entry 3). -/
theorem pickKey_mem (k : Nat) (ks : List Nat) (draw : Nat) : pickKey k ks draw ∈ k :: ks := by
  have hlt : Config.keyPick draw % (ks.length + 1) < (k :: ks).length := Nat.mod_lt _ (Nat.succ_pos _)
  rw [pickKey, List.getD_eq_getElem _ _ hlt]
  exact List.getElem_mem hlt

/-- With a key down FX0A loads the number of one that is down and draws once. -/
theorem exec_ldVxK_of_key (x : Nibble) (hdown : ∃ k < 16, s.key.getLsbD k = true) :
    ∃ k < 16, s.key.getLsbD k = true ∧
      exec (.ldVxK x) s = .next (s.setReg x (BitVec.ofNat 8 k)).drawn.advance := by
  obtain ⟨t, h⟩ := exec_total (.ldVxK x) s
  rcases exec_ldVxK_cases h with ⟨hnone, -⟩ | ⟨k, ks, hks, rfl⟩
  · obtain ⟨k, hk⟩ := hdown
    exact absurd (mem_keysDown.2 hk) (by simp [hnone])
  · obtain ⟨hlt, hpicked⟩ := mem_keysDown.1 (hks ▸ pickKey_mem k ks s.draws)
    exact ⟨_, hlt, hpicked, h⟩

/-! ### The timer registers (R97, R99, R100) -/

theorem exec_ldVxDt (x : Nibble) (s : State) : exec (.ldVxDt x) s = .next (s.setReg x s.dt).advance := rfl

theorem exec_ldDtVx (x : Nibble) (s : State) : exec (.ldDtVx x) s = .next (s.setDt (s.reg x)).advance := rfl

theorem exec_ldStVx (x : Nibble) (s : State) : exec (.ldStVx x) s = .next (s.setSt (s.reg x)).advance := rfl

/-- Nothing but the timers and pc may have changed. -/
def OnlyTimersAndPc (s t : State) : Prop :=
  RegsKept s t ∧ MemoryKept s t ∧ IndexKept s t ∧ DisplayKept s t ∧ StackKept s t ∧ StatusKept s t ∧
    HostKept s t ∧ DrawsKept s t

theorem onlyTimersAndPc_update (s : State) (dt st : Byte) (pc : Word) :
    OnlyTimersAndPc s (((s.setDt dt).setSt st).setPc pc) :=
  ⟨fun _ => rfl, fun _ => rfl, rfl, ⟨fun _ _ => rfl, rfl⟩, ⟨rfl, rfl⟩, ⟨rfl, rfl⟩,
    ⟨rfl, rfl, rfl, rfl, rfl, rfl⟩, rfl⟩

end Sys2Proof.Machine
end

section
/-! PROOFS. The statements about the key and timer instructions (spec 45_keys_timers.md), each settled by the
lemmas before. -/

namespace Sys2Proof.Proofs

open Sys2Proof.Machine Sys2Proof.Claims

/-- Settles O37: a key number up to 15 makes them skips on that key's bit, a larger one makes them fault. -/
theorem keySkips : Obligations.KeySkips :=
  ⟨decodesAs_skp, decodesAs_sknp,
   fun _ _ hx =>
    ⟨exec_skip (exec_skp_of_le hx) Iff.rfl, exec_skip (exec_sknp_of_le hx) (iff_of_eq (Bool.not_eq_true' _))⟩,
   fun _ _ _ hx => ⟨exec_skp_of_gt hx, exec_sknp_of_gt hx⟩⟩

/-- Settles O38: the key picked is below 16, so its number is what the byte loaded reads as. -/
theorem ldVxKWaitsForAKey : Obligations.LdVxKWaitsForAKey := by
  refine ⟨decodesAs_ldVxK, fun x _ hup => exec_ldVxK_of_no_key x hup, fun x s hdown => ?_⟩
  obtain ⟨k, hlt, hk, he⟩ := exec_ldVxK_of_key x hdown
  have hloaded : ((s.setReg x (BitVec.ofNat 8 k)).drawn.advance.reg x).toNat = k := by
    simp only [advance_reg, drawn_reg, reg_setReg, if_true, BitVec.toNat_ofNat]
    omega
  refine ⟨_, he, hloaded.symm ▸ hlt, hloaded.symm ▸ hk, fun r hr => ?_, rfl, rfl, fun _ => rfl, rfl,
    ⟨fun _ _ => rfl, rfl⟩, by simp⟩
  simp [hr]

/-- Settles O39: FX07 writes one register, FX15 and FX18 write one timer and keep the other. -/
theorem timerRegisterTransfers : Obligations.TimerRegisterTransfers :=
  ⟨decodesAs_ldVxDt, decodesAs_ldDtVx, decodesAs_ldStVx, fun x s =>
    ⟨exec_setReg (exec_ldVxDt x s),
     ⟨_, exec_ldDtVx x s, rfl, rfl, rfl, onlyTimersAndPc_update s (s.reg x) s.st _⟩,
     ⟨_, exec_ldStVx x s, rfl, rfl, rfl, onlyTimersAndPc_update s s.dt (s.reg x) _⟩⟩⟩

end Sys2Proof.Proofs
end

section
/-! PROOFS. When an instruction faults and what the fault writes, and the events and the fault record of each unit
(spec 60_exceptions.md). -/

namespace Sys2Proof.Machine

open Sys2Proof.Claims

variable {s t : State} {i : Instr}

/-! ### The conditions and their causes (R102) -/

theorem faultOf_eq_stackOverflow_iff :
    faultOf i s = .stackOverflow ↔ (∃ nnn, i = .call nnn) ∧ s.sp.val = 16 := by
  cases i <;> simp [faultOf, ite_eq_iff]

theorem faultOf_eq_stackUnderflow_iff : faultOf i s = .stackUnderflow ↔ i = .ret ∧ s.sp.val = 0 := by
  cases i <;> simp [faultOf, ite_eq_iff]

theorem faultOf_eq_keyFault_iff :
    faultOf i s = .keyFault ↔ ∃ x, (i = .skp x ∨ i = .sknp x) ∧ (s.reg x).toNat > 15 := by
  cases i <;> simp [faultOf, ite_eq_iff]

/-- Under a fault's condition an instruction takes that fault (R65, R67, R95, R96). -/
theorem exec_of_faultOf (hf : faultOf i s ≠ .noFault) :
    exec i s = .next (s.takeFault (faultOf i s) (encode i)) := by
  cases hc : faultOf i s with
  | noFault => exact absurd hc hf
  | stackOverflow =>
    obtain ⟨⟨nnn, rfl⟩, hsp⟩ := faultOf_eq_stackOverflow_iff.1 hc
    exact exec_call_of_full (decodeWord_encode _) hsp
  | stackUnderflow =>
    obtain ⟨rfl, hsp⟩ := faultOf_eq_stackUnderflow_iff.1 hc
    exact exec_ret_of_empty hsp
  | keyFault =>
    obtain ⟨x, rfl | rfl, hx⟩ := faultOf_eq_keyFault_iff.1 hc
    · exact exec_skp_of_gt hx (decodeWord_encode _)
    · exact exec_sknp_of_gt hx (decodeWord_encode _)

/-- An instruction takes the fault whose condition holds, or none holds and the fault record stays. -/
theorem exec_fault_cases (h : exec i s = .next t) :
    (faultOf i s ≠ .noFault ∧ t = s.takeFault (faultOf i s) (encode i)) ∨
    (faultOf i s = .noFault ∧ t.fault = s.fault) := by
  by_cases hf : faultOf i s = .noFault
  · rcases exec_status h with ⟨hne, -⟩ | ⟨-, rfl⟩ | ⟨-, hkept, -⟩
    · exact absurd hf hne
    · exact .inr ⟨hf, rfl⟩
    · exact .inr ⟨hf, hkept⟩
  · rw [exec_of_faultOf hf] at h
    cases h
    exact .inl ⟨hf, rfl⟩

/-- From a running core, the cause an instruction leaves is the one its condition gives. -/
theorem exec_fault_cause (hc : s.fault.cause = .noFault) (h : exec i s = .next t) :
    t.fault.cause = faultOf i s := by
  rcases exec_fault_cases h with ⟨-, rfl⟩ | ⟨hf, hkept⟩
  · rfl
  · rw [hkept, hc, hf]

/-! ### The step that halts the core (R106) -/

/-- A running core is halted by the instruction at pc only, which takes its fault with the fetched word. -/
theorem cycle_eq_takeFault (hc : s.fault.cause = .noFault) (h : cycle s = .next t)
    (ht : t.fault.cause ≠ .noFault) : t = s.begun.takeFault t.fault.cause s.fetch := by
  rcases cycle_eq_next h with ⟨hh, -⟩ | ⟨-, i, hd, he⟩ | ⟨-, u, -, rfl⟩
  · exact absurd hc hh
  · rcases exec_fault_cases he with ⟨hf, rfl⟩ | ⟨-, hkept⟩
    · rw [encode_eq_of_faultOf hd hf]
      rfl
    · exact absurd (hkept ▸ hc) ht
  · exact absurd hc ht

/-! ### The fault record of a halted core (R108) -/

/-- Only `initialize()` changes the fault record of a halted core. -/
theorem serve_fault_of_halted {u : HostUnit} (hc : s.fault.cause ≠ .noFault) (h : serve u s = .next t) :
    t.fault = s.fault ∨ u = .initCore := by
  cases u with
  | initCore => exact .inr rfl
  | loadProgram bytes => obtain ⟨-, -, rfl⟩ := loadProgram_eq_next h; exact .inl rfl
  | step =>
    rw [serve, cycle_of_halted ((halted_iff s).2 hc)] at h
    cases h
    exact .inl rfl
  | tickTimer => cases h; rw [tickTimer_eq]; exact .inl rfl
  | setKeys k => cases h; exact .inl rfl
  | clearDraw => cases h; exact .inl rfl

/-! ### The timer tick and its event (R110, R111) -/

theorem toNat_eq_one_iff (b : Byte) : b.toNat = 1 ↔ b = 1#8 := BitVec.toNat_inj (y := 1#8)

/-- A timer counts down and stays at 0. -/
theorem toNat_countdown (b : Byte) : (if b.toNat > 0 then b - 1#8 else b).toNat = b.toNat - 1 := by
  split <;> bv_omega

/-- A cycle emits no Sound: the one event it can emit is the diagnostic of an unknown opcode (R56). -/
theorem cycle_count_sound (h : cycle s = .next t) : t.events.count .sound = s.events.count .sound := by
  rcases cycle_eq_next h with ⟨-, rfl⟩ | ⟨-, i, -, he⟩ | ⟨-, u, -, rfl⟩
  · rfl
  · obtain ⟨-, -, hevents, -⟩ := exec_keeps he
    rw [hevents]
    rfl
  · simp [skipUnknown, State.begun]

/-- Unit by unit, Sound is emitted on the tick at ST = 1 and at no other time (R111). -/
theorem serve_count_sound {u : HostUnit} (h : serve u s = .next t) :
    t.events.count .sound = s.events.count .sound + if u = .tickTimer ∧ s.st = 1#8 then 1 else 0 := by
  cases u with
  | loadProgram bytes => obtain ⟨-, -, rfl⟩ := loadProgram_eq_next h; rfl
  | step => exact cycle_count_sound h
  | tickTimer =>
    cases h
    by_cases hst : s.st = 1#8 <;> simp [tickTimer_eq, toNat_eq_one_iff, hst]
  | initCore | setKeys _ | clearDraw => cases h; rfl

end Sys2Proof.Machine
end

section
/-! PROOFS. The statements about faults and the timer tick (spec 60_exceptions.md), each settled by the lemmas
before. -/

namespace Sys2Proof.Proofs

open Sys2Proof.Machine Sys2Proof.Claims

/-- Settles O40: the cause left is `faultOf`, and a fault taken records the instruction's own word. -/
theorem onlyTheseConditionsFault : Obligations.OnlyTheseConditionsFault := by
  intro i s t hc h
  rw [exec_fault_cause hc h]
  refine ⟨faultOf_eq_stackOverflow_iff, faultOf_eq_stackUnderflow_iff, faultOf_eq_keyFault_iff, fun hf => ?_⟩
  rw [exec_of_faultOf hf] at h
  cases h
  exact ⟨rfl, decodeWord_encode i⟩

/-- Settles O41: the fault is taken in the started state with the fetched word, and a halted step does nothing. -/
theorem faultIsPrecise : Obligations.FaultIsPrecise := by
  intro s t hu hc h ht
  have hcycle : cycle (taken s) = .next t := (step_of_nextUnit hu).symm.trans h
  exact ⟨cycle_eq_takeFault (s := taken s) hc hcycle ht, fun hu' => step_of_halted hu' ht⟩

/-- Settles O42: unit by unit for a halted core; `initialize()` writes the clear record. -/
theorem onlyResetClearsAFault : Obligations.OnlyResetClearsAFault :=
  ⟨fun s _ hc h hne =>
    (serve_fault_of_halted (s := taken s) hc ((step_of_nextUnit rfl).symm.trans h)).resolve_left hne,
   fun _ hu => ⟨_, step_of_nextUnit hu, rfl⟩⟩

/-- Settles O46: unit by unit, from the state with the unit taken. -/
theorem soundExactlyOnTheTickToZero : Obligations.SoundExactlyOnTheTickToZero :=
  fun s _ h => serve_count_sound (s := taken s) ((step_of_nextUnit rfl).symm.trans h)

/-- Settles O45: the tick's two countdowns and its event are all that `tickTimer_eq` lets it write. -/
theorem tickTimerCountsDown : Obligations.TickTimerCountsDown :=
  fun s hu => ⟨_, (step_of_nextUnit hu).trans (congrArg Host.Outcome.next (tickTimer_eq (taken s))),
    toNat_countdown s.dt, toNat_countdown s.st, if_congr (toNat_eq_one_iff s.st) rfl rfl, rfl⟩

end Sys2Proof.Proofs
end

section
/-! PROOFS. The host's requests, unit by unit: what every unit leaves alone, the load window, and the protocol
(spec 70_reset_and_hazards.md R121 to R126). -/

namespace Sys2Proof.Machine

open Sys2Proof.Claims

variable {s t : State} {u : HostUnit}

/-! ### What every unit leaves alone (R125) -/

/-- The requests and the parameter `FONT` stay and at most one event is appended. -/
def UnitFrame (s t : State) : Prop :=
  t.schedule = s.schedule ∧ t.stream = s.stream ∧ t.font = s.font ∧
    ∃ es, t.events = s.events ++ es ∧ es.length ≤ 1

theorem unitFrame_of_events_eq (hsched : t.schedule = s.schedule) (hstream : t.stream = s.stream)
    (hfont : t.font = s.font) (hevents : t.events = s.events) : UnitFrame s t :=
  ⟨hsched, hstream, hfont, [], by simp [hevents], Nat.zero_le 1⟩

/-- A cycle emits nothing but the diagnostic of an unknown opcode (R56). -/
theorem unitFrame_cycle (h : cycle s = .next t) : UnitFrame s t := by
  rcases cycle_eq_next h with ⟨-, rfl⟩ | ⟨-, i, -, he⟩ | ⟨-, _, -, rfl⟩
  · exact unitFrame_of_events_eq rfl rfl rfl rfl
  · obtain ⟨-, hsched, hevents, -, hstream, hfont, -⟩ := exec_keeps he
    exact unitFrame_of_events_eq hsched hstream hfont hevents
  · exact ⟨rfl, rfl, rfl, _, rfl, Nat.le_refl 1⟩

/-- A timer tick emits nothing but Sound (R111). -/
theorem unitFrame_tickTimer (s : State) : UnitFrame s (tickTimer s) := by
  rw [tickTimer_eq]
  by_cases hst : s.st.toNat = 1
  · exact ⟨rfl, rfl, rfl, [.sound], if_pos hst, Nat.le_refl 1⟩
  · exact unitFrame_of_events_eq rfl rfl rfl (if_neg hst)

theorem unitFrame_serve (h : serve u s = .next t) : UnitFrame s t := by
  cases u with
  | loadProgram bytes =>
    obtain ⟨-, -, rfl⟩ := loadProgram_eq_next h
    exact unitFrame_of_events_eq rfl rfl rfl rfl
  | step => exact unitFrame_cycle h
  | tickTimer => cases h; exact unitFrame_tickTimer s
  | initCore | setKeys _ | clearDraw => cases h; exact unitFrame_of_events_eq rfl rfl rfl rfl

/-! ### The load window (R124) -/

theorem loadProgram_of_closed (bytes : List Byte) (ho : s.loadOpen = false) :
    loadProgram bytes s = .refused .lateLoad := by
  simp [loadProgram, ho]

/-- The cycle of a running core closes the window. -/
theorem cycle_loadOpen (hc : s.fault.cause = .noFault) (h : cycle s = .next t) : t.loadOpen = false := by
  rcases cycle_eq_next h with ⟨hh, -⟩ | ⟨-, i, -, he⟩ | ⟨-, _, -, rfl⟩
  · exact absurd hc hh
  · obtain ⟨-, -, -, hopen, -⟩ := exec_keeps he
    exact hopen
  · rfl

/-- Every unit leaves the window as `loadOpenAfter` says, but for the step of a halted core, which leaves it
alone. -/
theorem serve_loadOpen (h : serve u s = .next t) :
    t.loadOpen = u.loadOpenAfter s.loadOpen ∨
    (u = .step ∧ s.fault.cause ≠ .noFault ∧ t.loadOpen = s.loadOpen) := by
  cases u with
  | loadProgram bytes => obtain ⟨-, -, rfl⟩ := loadProgram_eq_next h; exact .inl rfl
  | step =>
    by_cases hc : s.fault.cause = .noFault
    · exact .inl (cycle_loadOpen hc h)
    · rw [serve, cycle_of_halted ((halted_iff s).2 hc)] at h
      cases h
      exact .inr ⟨rfl, hc, rfl⟩
  | tickTimer => cases h; rw [tickTimer_eq]; exact .inl rfl
  | initCore | setKeys _ | clearDraw => cases h; exact .inl rfl

/-- Only `initialize()` opens a closed window. -/
theorem loadOpenAfter_false_iff : u.loadOpenAfter false = true ↔ u = .initCore := by
  cases u <;> simp [HostUnit.loadOpenAfter]

/-- Under the invariant a halted core has the window closed, so that no unit is an exception. -/
theorem Inv.serve_loadOpen (hs : Inv s) (h : serve u s = .next t) : t.loadOpen = u.loadOpenAfter s.loadOpen := by
  rcases Machine.serve_loadOpen h with hopen | ⟨rfl, hc, hopen⟩
  · exact hopen
  · obtain ⟨-, -, hclosed, -⟩ := hs.faultShown hc
    exact hopen.trans hclosed

/-! ### A unit in its place is served (R132) -/

theorem cycle_total (s : State) : ∃ t, cycle s = .next t := by
  by_cases hc : s.fault.cause = .noFault
  · cases hd : decodeWord s.fetch with
    | ok i => rw [cycle_of_decodeWord hc hd]; exact exec_total i s.begun
    | error _ => exact ⟨_, cycle_of_unknown hc hd⟩
  · exact ⟨s, cycle_of_halted ((halted_iff s).2 hc)⟩

theorem loadProgram_of_fits {bytes : List Byte} (ho : s.loadOpen = true) (hb : bytes.length ≤ 3584) :
    loadProgram bytes s = .next { s.memStore Config.programBase bytes with loadOpen := false } := by
  rcases loadProgram_cases bytes s with ⟨-, -, e⟩ | ⟨-, hbig, -⟩ | ⟨hclosed, -⟩
  · exact e
  · omega
  · simp [ho] at hclosed

theorem loadProgram_of_oversized {bytes : List Byte} (ho : s.loadOpen = true) (hb : 3584 < bytes.length) :
    loadProgram bytes s = .fault .oversizedRom := by
  rcases loadProgram_cases bytes s with ⟨-, hfits, -⟩ | ⟨-, -, e⟩ | ⟨hclosed, -⟩
  · omega
  · exact e
  · simp [ho] at hclosed

theorem serve_total (hw : u.wellFormed = true) (ho : u.inOrder s.loadOpen = true) :
    ∃ t, serve u s = .next t := by
  cases u with
  | loadProgram bytes => exact ⟨_, loadProgram_of_fits ho (of_decide_eq_true hw)⟩
  | step => exact cycle_total s
  | initCore | tickTimer | setKeys _ | clearDraw => exact ⟨_, rfl⟩

/-! ### The host's protocol (R124, R126) -/

theorem scheduleWellFormed_cons_iff {o : Bool} {us : List HostUnit} :
    scheduleWellFormed o (u :: us) = true ↔
      u.wellFormed = true ∧ u.inOrder o = true ∧ scheduleWellFormed (u.loadOpenAfter o) us = true := by
  simp [scheduleWellFormed, and_assoc]

/-- Under the protocol the next unit can be served as asked. -/
theorem KeepsProtocol.nextUnit_served (h : KeepsProtocol s) :
    s.nextUnit.wellFormed = true ∧ s.nextUnit.inOrder s.loadOpen = true := by
  obtain ⟨hw, ho, -⟩ := scheduleWellFormed_cons_iff.1 (h 1)
  exact ⟨hw, ho⟩

/-- Once its next unit is served, with the window and the requests that leaves, the host is still under the
protocol. -/
theorem KeepsProtocol.of_served (h : KeepsProtocol s) (hopen : t.loadOpen = s.nextUnit.loadOpenAfter s.loadOpen)
    (hframe : UnitFrame s.takeUnit t) : KeepsProtocol t := by
  intro k
  obtain ⟨hsched, hstream, -⟩ := hframe
  obtain ⟨-, -, hrest⟩ := scheduleWellFormed_cons_iff.1 (h (k + 1))
  rwa [hopen, requested_congr hsched hstream]

/-! ### The units requested, by number (R126) -/

/-- The unit requested as number j depends on the two fields of the host's requests only. -/
theorem unitAt_congr (hsched : t.schedule = s.schedule) (hstream : t.stream = s.stream) (j : Nat) :
    unitAt t j = unitAt s j := by
  induction j generalizing s t with
  | zero =>
    change nextUnit t = nextUnit s
    simp [nextUnit, hsched, hstream]
  | succ j ih =>
    have hsched' : (taken t).schedule = (taken s).schedule := by simp [taken, hsched]
    have hstream' : (taken t).stream = (taken s).stream := by simp [taken, hsched, hstream]
    exact ih hsched' hstream'

theorem unitFrame_step (h : step s = .next t) : UnitFrame (taken s) t :=
  unitFrame_serve ((step_of_nextUnit rfl).symm.trans h)

/-- After k steps the units requested are those from number k on. -/
theorem unitAt_run {k : Nat} (h : Host.Core.run core k s = .next t) (j : Nat) :
    unitAt t j = unitAt s (k + j) := by
  induction k generalizing s with
  | zero => cases h; rw [Nat.zero_add]
  | succ k ih =>
    obtain ⟨u, hstep, hrun⟩ := run_succ_eq_next h
    obtain ⟨hsched, hstream, -⟩ := unitFrame_step hstep
    calc unitAt t j = unitAt u (k + j) := ih hrun
      _ = unitAt (taken s) (k + j) := unitAt_congr hsched hstream _
      _ = unitAt s (k + 1 + j) := by rw [Nat.succ_add]; rfl

/-- A list of requests and then the free sequence from number n on. -/
theorem unitAt_schedule_stream (s : State) (us : List HostUnit) (n j : Nat) :
    unitAt { s with schedule := us, stream := some n } j =
      us.getD j (Config.hostUnit (n + (j - us.length))) := by
  induction j generalizing us n with
  | zero => cases us <;> rfl
  | succ j ih =>
    cases us with
    | nil =>
      calc unitAt { s with schedule := [], stream := some n } (j + 1)
        _ = unitAt { s with schedule := [], stream := some (n + 1) } j := rfl
        _ = Config.hostUnit (n + 1 + j) := ih [] (n + 1)
        _ = Config.hostUnit (n + (j + 1)) := by rw [Nat.add_right_comm, Nat.add_assoc]
    | cons u us =>
      calc unitAt { s with schedule := u :: us, stream := some n } (j + 1)
        _ = unitAt { s with schedule := us, stream := some n } j := rfl
        _ = us.getD j (Config.hostUnit (n + (j - us.length))) := ih us n
        _ = (u :: us).getD (j + 1) (Config.hostUnit (n + (j + 1 - (us.length + 1)))) := by
          rw [Nat.add_sub_add_right, List.getD_cons_succ]

/-! ### A core that neither waits nor may load -/

/-- With `wait_key` 0 and the window closed a step starts from the state with the unit taken. -/
theorem started_eq_taken (hw : s.waitKey = false) (ho : s.loadOpen = false) : started s = taken s := by
  cases s
  cases hw
  cases ho
  rfl

/-! ### The bytes of a ROM (R121) -/

/-- A ROM stored at 0x200 that fits below 0x1000 leaves the bytes around it. -/
theorem memRead_memStore_programBase_of_outside (s : State) {rom : List Byte} (hrom : rom.length ≤ 3584)
    {a : Nat} (ha : a < 4096) (hout : a < 0x200 ∨ 0x200 + rom.length ≤ a) :
    (s.memStore Config.programBase rom).memRead a = s.memRead a := by
  refine memRead_memStore_of_ne s _ rom a fun k hk => ?_
  simp only [wrap, Config.memSize, Config.programBase]
  omega

end Sys2Proof.Machine
end

section
/-! PROOFS. The statements about reset and the host's requests (spec 70_reset_and_hazards.md), each settled by the
lemmas before. -/

namespace Sys2Proof.Proofs

open Sys2Proof.Machine Sys2Proof.Claims

/-- Settles O60: the protocol puts the next unit in its place, where it is served; serving it keeps the invariant,
leaves the other requests and moves the load window as the protocol expects. -/
theorem theCoreNeverStops : Obligations.TheCoreNeverStops := by
  intro s hs hp
  obtain ⟨hw, ho⟩ := hp.nextUnit_served
  obtain ⟨t, h⟩ : ∃ t, serve s.nextUnit s.takeUnit = .next t := serve_total hw ho
  exact ⟨t, h, hs.takeUnit.of_serve h, hp.of_served (hs.takeUnit.serve_loadOpen h) (unitFrame_serve h)⟩

/-- Settles O54: a closed window refuses, and what each unit leaves of the window is `serve_loadOpen`. -/
theorem loadOnlyOnceBeforeTheFirstStep : Obligations.LoadOnlyOnceBeforeTheFirstStep := by
  refine ⟨fun s rom hu ho => ?_, fun s t hu hc h => ?_, fun s t rom hu h => ?_, fun s t h hclosed hopen => ?_⟩
  · exact (step_of_nextUnit hu).trans (loadProgram_of_closed (s := taken s) rom ho)
  · exact cycle_loadOpen (s := taken s) hc ((step_of_nextUnit hu).symm.trans h)
  · obtain ⟨-, -, rfl⟩ := loadProgram_eq_next ((step_of_nextUnit hu).symm.trans h)
    rfl
  · rcases serve_loadOpen ((step_of_nextUnit rfl).symm.trans h) with hafter | ⟨-, -, hkept⟩
    · have hopens : (nextUnit s).loadOpenAfter s.loadOpen = true := hafter.symm.trans hopen
      rw [hclosed] at hopens
      exact loadOpenAfter_false_iff.1 hopens
    · have hopened : s.loadOpen = true := hkept.symm.trans hopen
      simp [hclosed] at hopened

/-- Settles O55: the frame of every unit, the run by induction on its steps, and the units by number by induction on
the number. -/
theorem oneUnitAStep : Obligations.OneUnitAStep :=
  ⟨fun _ _ h => unitFrame_step h, fun _ _ _ h => unitAt_run h, unitAt_schedule_stream⟩

/-- Settles O50: `initialize()` leaves the state after reset, but for the requests, the event log and the draw
counter. -/
theorem initializeLeavesResetValues : Obligations.InitializeLeavesResetValues :=
  fun s hu => ⟨_, step_of_nextUnit hu, rfl, rfl, memRead_resetWith_font s.font,
    fun _ => memRead_resetWith_above s.font, reg_resetWith s.font, rfl, rfl, stack_resetWith s.font, rfl, rfl, rfl,
    fun p _ => fbPixel_fbBlank p, fun _ _ => BitVec.getLsbD_zero, rfl, rfl, rfl⟩

/-- Settles O52: a ROM that fits is one store from 0x200 up, which ends below 0x1000. -/
theorem loadProgramCopiesTheRom : Obligations.LoadProgramCopiesTheRom := by
  intro s rom hu ho hrom
  have hlen : rom.length ≤ Config.memSize := by simp only [Config.memSize]; omega
  exact ⟨_, (step_of_nextUnit hu).trans (loadProgram_of_fits (s := taken s) ho hrom),
    memRead_memStore (taken s) Config.programBase rom hlen,
    fun _ ha hout => memRead_memStore_programBase_of_outside (taken s) hrom ha hout, rfl⟩

/-- Settles O53: the load's outcome when the ROM does not fit. -/
theorem oversizedRomIsALoadError : Obligations.OversizedRomIsALoadError :=
  fun s _ hu ho hrom => (step_of_nextUnit hu).trans (loadProgram_of_oversized (s := taken s) ho hrom)

/-- Settles O56: the jump writes pc with what it holds, and the started state is the state with the unit taken. -/
theorem parkedStaysAsItIs : Obligations.ParkedStaysAsItIs := by
  intro s nnn hu hc hw ho hop hnnn
  have hd : decodeWord s.fetch = .ok (.jp nnn) := (congrArg decodeWord hop).trans (decodeWord_encode (.jp nnn))
  have hpc : absolute nnn = s.pc := BitVec.eq_of_toNat_eq ((toNat_absolute nnn).trans hnnn)
  calc step s = exec (.jp nnn) (started s) := step_of_decodeWord hu hc hd
    _ = .next ((started s).setPc (absolute nnn)) := exec_jp nnn _
    _ = .next (taken s) := by rw [hpc, started_eq_taken hw ho]; rfl

end Sys2Proof.Proofs
end
